-- ==== Sys2Proof/Word.lean ====
section
/-!
DEFINITION. The widths of the machine's values (00_scope.md R6, R8, R9; 10_state.md R20, R25, R27).
Bit 0 is the least significant bit; every value is unsigned.
-/

namespace Sys2Proof

/-- A byte of memory or of a general register (R20, R60). -/
abbrev Byte := BitVec 8

/-- A 16-bit word: an instruction word, the address register I, the program counter, a return address (R25, R27, R28, R90). -/
abbrev Word := BitVec 16

/-- A 4-bit field: the family, a register index, a height, a key index (R90). -/
abbrev Nibble := BitVec 4

/-- The index of a general register V0..VF, as the X and Y fields hold it (R20, R92). -/
abbrev Reg := BitVec 4

/-- A 12-bit address field NNN (R90). -/
abbrev Addr := BitVec 12

/-- The flag register VF is V[0xF] (R10, R22). -/
abbrev Reg.flag : Reg := 0xF#4

/-- A Boolean as the byte 1 or 0, which is how a flag is written (R221 and its neighbours). -/
def byteOfBool (b : Bool) : Byte := if b then 1 else 0

end Sys2Proof
end

