-- ==== Sys2Proof/Syntax.lean ====
section
/-!
DEFINITION. The 41 instructions of spec/opcode_table.json, one constructor a row (30_encoding.md R93), with the fields of
R90 as operands. SHR and SHL keep the Y field they ignore (R98), so that an instruction stands for exactly one word.
-/

namespace Sys2Proof

/-- One instruction. `x`, `y` are register indices, `n` is w[3:0], `nn` is w[7:0], `nnn` is w[11:0] (R11). -/
inductive Instr where
  /-- 00E0 CLS, R155. -/
  | cls
  /-- 00EE RET, R185. -/
  | ret
  /-- 00CN SCD N, R156. -/
  | scd (n : Nibble)
  /-- 00FB SCR, R157. -/
  | scr
  /-- 00FC SCL, R158. -/
  | scl
  /-- 00FE LOW, R159. -/
  | low
  /-- 00FF HIGH, R160. -/
  | high
  /-- 1NNN JP NNN, R186. -/
  | jp (nnn : Addr)
  /-- 2NNN CALL NNN, R187. -/
  | call (nnn : Addr)
  /-- 3XNN SE Vx, NN, R188. -/
  | seImm (x : Reg) (nn : Byte)
  /-- 4XNN SNE Vx, NN, R189. -/
  | sneImm (x : Reg) (nn : Byte)
  /-- 5XY0 SE Vx, Vy, R190. -/
  | seReg (x y : Reg)
  /-- 6XNN LD Vx, NN, R215. -/
  | ldImm (x : Reg) (nn : Byte)
  /-- 7XNN ADD Vx, NN, R216. -/
  | addImm (x : Reg) (nn : Byte)
  /-- 8XY0 LD Vx, Vy, R217. -/
  | ldReg (x y : Reg)
  /-- 8XY1 OR Vx, Vy, R218. -/
  | orReg (x y : Reg)
  /-- 8XY2 AND Vx, Vy, R219. -/
  | andReg (x y : Reg)
  /-- 8XY3 XOR Vx, Vy, R220. -/
  | xorReg (x y : Reg)
  /-- 8XY4 ADD Vx, Vy, R221. -/
  | addReg (x y : Reg)
  /-- 8XY5 SUB Vx, Vy, R222. -/
  | sub (x y : Reg)
  /-- 8XY6 SHR Vx, R223; `y` is ignored (R98; log 23). -/
  | shr (x y : Reg)
  /-- 8XY7 SUBN Vx, Vy, R224. -/
  | subn (x y : Reg)
  /-- 8XYE SHL Vx, R225; `y` is ignored (R98; log 23). -/
  | shl (x y : Reg)
  /-- 9XY0 SNE Vx, Vy, R191. -/
  | sneReg (x y : Reg)
  /-- ANNN LD I, NNN, R245. -/
  | ldI (nnn : Addr)
  /-- BNNN JP V0, NNN, R192. -/
  | jpV0 (nnn : Addr)
  /-- CXNN RND Vx, NN, R226. -/
  | rnd (x : Reg) (nn : Byte)
  /-- DXYN DRW Vx, Vy, N with N ≠ 0, R161. -/
  | drw (x y : Reg) (n : Nibble)
  /-- DXY0 DRW Vx, Vy, 0, the 16×16 sprite, R162. -/
  | drw16 (x y : Reg)
  /-- EX9E SKP Vx, R275. -/
  | skp (x : Reg)
  /-- EXA1 SKNP Vx, R276. -/
  | sknp (x : Reg)
  /-- FX07 LD Vx, DT, R277. -/
  | ldVxDt (x : Reg)
  /-- FX0A LD Vx, K, R278 (entry) and R279 (completion). -/
  | ldVxK (x : Reg)
  /-- FX15 LD DT, Vx, R280. -/
  | ldDtVx (x : Reg)
  /-- FX18 LD ST, Vx, R281. -/
  | ldStVx (x : Reg)
  /-- FX1E ADD I, Vx, R246. -/
  | addI (x : Reg)
  /-- FX29 LD F, Vx, R247. -/
  | ldF (x : Reg)
  /-- FX30 LD HF, Vx, R248. -/
  | ldHf (x : Reg)
  /-- FX33 LD B, Vx, R249. -/
  | ldB (x : Reg)
  /-- FX55 LD [I], Vx, R250. -/
  | ldMemVx (x : Reg)
  /-- FX65 LD Vx, [I], R251. -/
  | ldVxMem (x : Reg)
  deriving DecidableEq, Repr

end Sys2Proof
end

