-- ==== Sys2Proof/WellFormed.lean ====
section
/-!
DEFINITION. Which terms of `Instr` stand for a word of the opcode map. The field types admit exactly the values R91 and R92
call legal, so one check is left: the constraint N ≠ 0 of the DXYN row (30_encoding.md R93, R96).
-/

namespace Sys2Proof

/-- The opcode map's constraints: DXYN has N ≠ 0, its N = 0 word being DXY0 (R93, R96); every other row has none. -/
def Instr.wellFormed : Instr → Bool
  | .drw _ _ n => n != 0
  | .cls | .ret | .scd _ | .scr | .scl | .low | .high | .jp _ | .call _ | .seImm _ _ | .sneImm _ _ | .seReg _ _
  | .ldImm _ _ | .addImm _ _ | .ldReg _ _ | .orReg _ _ | .andReg _ _ | .xorReg _ _ | .addReg _ _ | .sub _ _
  | .shr _ _ | .subn _ _ | .shl _ _ | .sneReg _ _ | .ldI _ | .jpV0 _ | .rnd _ _ | .drw16 _ _ | .skp _ | .sknp _
  | .ldVxDt _ | .ldVxK _ | .ldDtVx _ | .ldStVx _ | .addI _ | .ldF _ | .ldHf _ | .ldB _ | .ldMemVx _
  | .ldVxMem _ => true

end Sys2Proof
end

