-- ==== Sys2Proof/Decode.lean ====
section
/-!
DEFINITION. The decoder, total on every word and every list of bytes, and the encoder written from the same opcode map
(30_encoding.md R90 to R102; 20_memory.md R63). Decoding reads nothing but the word (40_cycle.md R122).
-/

namespace Sys2Proof

/-- Why bytes give no instruction. -/
inductive DecodeError where
  /-- The word matches no row of R93: an unknown word (R100). What executing it does is R129, in Machine/Cycle.lean. -/
  | unknownWord (w : Word)
  /-- Fewer than the two bytes of an instruction (R102). -/
  | truncated (bytes : Nat)
  deriving DecidableEq, Repr

/-! ## Fields (R90, R11) -/

/-- The opcode family, w[15:12]. -/
def fieldOp (w : Word) : Nibble := w.extractLsb' 12 4

/-- X = w[11:8]. -/
def fieldX (w : Word) : Reg := w.extractLsb' 8 4

/-- Y = w[7:4]. -/
def fieldY (w : Word) : Reg := w.extractLsb' 4 4

/-- N = w[3:0]. -/
def fieldN (w : Word) : Nibble := w.extractLsb' 0 4

/-- NN = w[7:0]. -/
def fieldNN (w : Word) : Byte := w.extractLsb' 0 8

/-- NNN = w[11:0]. -/
def fieldNNN (w : Word) : Addr := w.extractLsb' 0 12

/-! ## Decoding -/

/-- Family 0x0, split by the low 12 bits (R94). -/
def decodeFamily0 (w : Word) : Except DecodeError Instr :=
  match (fieldNNN w).toNat with
  | 0x0E0 => .ok .cls
  | 0x0EE => .ok .ret
  | 0x0FB => .ok .scr
  | 0x0FC => .ok .scl
  | 0x0FE => .ok .low
  | 0x0FF => .ok .high
  | _ => if fieldX w = 0x0#4 ∧ fieldY w = 0xC#4 then .ok (.scd (fieldN w)) else .error (.unknownWord w)

/-- Family 0x8, split by N (R95). -/
def decodeFamily8 (w : Word) : Except DecodeError Instr :=
  match (fieldN w).toNat with
  | 0x0 => .ok (.ldReg (fieldX w) (fieldY w))
  | 0x1 => .ok (.orReg (fieldX w) (fieldY w))
  | 0x2 => .ok (.andReg (fieldX w) (fieldY w))
  | 0x3 => .ok (.xorReg (fieldX w) (fieldY w))
  | 0x4 => .ok (.addReg (fieldX w) (fieldY w))
  | 0x5 => .ok (.sub (fieldX w) (fieldY w))
  | 0x6 => .ok (.shr (fieldX w) (fieldY w))
  | 0x7 => .ok (.subn (fieldX w) (fieldY w))
  | 0xE => .ok (.shl (fieldX w) (fieldY w))
  | _ => .error (.unknownWord w)

/-- Family 0xE, split by NN (R97). -/
def decodeFamilyE (w : Word) : Except DecodeError Instr :=
  match (fieldNN w).toNat with
  | 0x9E => .ok (.skp (fieldX w))
  | 0xA1 => .ok (.sknp (fieldX w))
  | _ => .error (.unknownWord w)

/-- Family 0xF, split by NN (R97). -/
def decodeFamilyF (w : Word) : Except DecodeError Instr :=
  match (fieldNN w).toNat with
  | 0x07 => .ok (.ldVxDt (fieldX w))
  | 0x0A => .ok (.ldVxK (fieldX w))
  | 0x15 => .ok (.ldDtVx (fieldX w))
  | 0x18 => .ok (.ldStVx (fieldX w))
  | 0x1E => .ok (.addI (fieldX w))
  | 0x29 => .ok (.ldF (fieldX w))
  | 0x30 => .ok (.ldHf (fieldX w))
  | 0x33 => .ok (.ldB (fieldX w))
  | 0x55 => .ok (.ldMemVx (fieldX w))
  | 0x65 => .ok (.ldVxMem (fieldX w))
  | _ => .error (.unknownWord w)

/-- The instruction a 16-bit word is, or that it is unknown (R93, R96, R97, R100, R122). Families 0x5 and 0x9 need N = 0; in
family 0xD, N = 0 is the 16×16 draw. A family is four bits, so the last arm is 0xF. -/
def decodeWord (w : Word) : Except DecodeError Instr :=
  match (fieldOp w).toNat with
  | 0x0 => decodeFamily0 w
  | 0x1 => .ok (.jp (fieldNNN w))
  | 0x2 => .ok (.call (fieldNNN w))
  | 0x3 => .ok (.seImm (fieldX w) (fieldNN w))
  | 0x4 => .ok (.sneImm (fieldX w) (fieldNN w))
  | 0x5 => if fieldN w = 0#4 then .ok (.seReg (fieldX w) (fieldY w)) else .error (.unknownWord w)
  | 0x6 => .ok (.ldImm (fieldX w) (fieldNN w))
  | 0x7 => .ok (.addImm (fieldX w) (fieldNN w))
  | 0x8 => decodeFamily8 w
  | 0x9 => if fieldN w = 0#4 then .ok (.sneReg (fieldX w) (fieldY w)) else .error (.unknownWord w)
  | 0xA => .ok (.ldI (fieldNNN w))
  | 0xB => .ok (.jpV0 (fieldNNN w))
  | 0xC => .ok (.rnd (fieldX w) (fieldNN w))
  | 0xD => if fieldN w = 0#4 then .ok (.drw16 (fieldX w) (fieldY w))
           else .ok (.drw (fieldX w) (fieldY w) (fieldN w))
  | 0xE => decodeFamilyE w
  | _ => decodeFamilyF w

/-- The instruction word two bytes make, the first being the high byte: `(byte0 << 8) | byte1` (R63, R120). -/
def wordOfBytes (b0 b1 : Byte) : Word := b0 ++ b1

/-- The high byte of a word, the one at the lower address (R63). -/
def highByte (w : Word) : Byte := w.extractLsb' 8 8

/-- The low byte of a word, the one at the higher address (R63). -/
def lowByte (w : Word) : Byte := w.extractLsb' 0 8

/-- Decode the instruction at the front of a list of bytes and give back the rest; every instruction is two bytes (R102). -/
def decodeBytes : List Byte → Except DecodeError (Instr × List Byte)
  | [] => .error (.truncated 0)
  | [_] => .error (.truncated 1)
  | b0 :: b1 :: rest =>
    match decodeWord (wordOfBytes b0 b1) with
    | .ok i => .ok (i, rest)
    | .error e => .error e

/-! ## Encoding -/

/-- A word from its family, X and the low byte. -/
def wordXNN (op : Nibble) (x : Reg) (nn : Byte) : Word := op ++ x ++ nn

/-- A word from its family and NNN. -/
def wordNNN (op : Nibble) (nnn : Addr) : Word := op ++ nnn

/-- A word from its four nibbles. -/
def wordXYN (op : Nibble) (x y : Reg) (n : Nibble) : Word := op ++ x ++ y ++ n

/-- The word of an instruction, from the patterns of R93. -/
def encode : Instr → Word
  | .cls => 0x00E0
  | .ret => 0x00EE
  | .scd n => wordXYN 0x0 0x0 0xC n
  | .scr => 0x00FB
  | .scl => 0x00FC
  | .low => 0x00FE
  | .high => 0x00FF
  | .jp nnn => wordNNN 0x1 nnn
  | .call nnn => wordNNN 0x2 nnn
  | .seImm x nn => wordXNN 0x3 x nn
  | .sneImm x nn => wordXNN 0x4 x nn
  | .seReg x y => wordXYN 0x5 x y 0x0
  | .ldImm x nn => wordXNN 0x6 x nn
  | .addImm x nn => wordXNN 0x7 x nn
  | .ldReg x y => wordXYN 0x8 x y 0x0
  | .orReg x y => wordXYN 0x8 x y 0x1
  | .andReg x y => wordXYN 0x8 x y 0x2
  | .xorReg x y => wordXYN 0x8 x y 0x3
  | .addReg x y => wordXYN 0x8 x y 0x4
  | .sub x y => wordXYN 0x8 x y 0x5
  | .shr x y => wordXYN 0x8 x y 0x6
  | .subn x y => wordXYN 0x8 x y 0x7
  | .shl x y => wordXYN 0x8 x y 0xE
  | .sneReg x y => wordXYN 0x9 x y 0x0
  | .ldI nnn => wordNNN 0xA nnn
  | .jpV0 nnn => wordNNN 0xB nnn
  | .rnd x nn => wordXNN 0xC x nn
  | .drw x y n => wordXYN 0xD x y n
  | .drw16 x y => wordXYN 0xD x y 0x0
  | .skp x => wordXNN 0xE x 0x9E
  | .sknp x => wordXNN 0xE x 0xA1
  | .ldVxDt x => wordXNN 0xF x 0x07
  | .ldVxK x => wordXNN 0xF x 0x0A
  | .ldDtVx x => wordXNN 0xF x 0x15
  | .ldStVx x => wordXNN 0xF x 0x18
  | .addI x => wordXNN 0xF x 0x1E
  | .ldF x => wordXNN 0xF x 0x29
  | .ldHf x => wordXNN 0xF x 0x30
  | .ldB x => wordXNN 0xF x 0x33
  | .ldMemVx x => wordXNN 0xF x 0x55
  | .ldVxMem x => wordXNN 0xF x 0x65

/-- The two bytes of an instruction as memory holds them, high byte first (R63). -/
def encodeBytes (i : Instr) : List Byte := [highByte (encode i), lowByte (encode i)]

/-! ## The opcode map as the spec prints it (R93) -/

/-- One row of R93: a word is the row's instruction when `(w & mask) == pat` and, in the DXYN row, N ≠ 0. -/
structure OpcodeRow where
  /-- The row's mnemonic in spec/opcode_table.json. -/
  mnemonic : String
  /-- The row's match value. -/
  pat : Word
  /-- The row's mask. -/
  mask : Word
  /-- The constraint N ≠ 0 (DXYN only). -/
  nNonzero : Bool
  deriving DecidableEq, Repr

/-- Whether a word is the row's instruction (R93). -/
def OpcodeRow.admits (r : OpcodeRow) (w : Word) : Bool :=
  w &&& r.mask == r.pat && (!r.nNonzero || fieldN w != 0#4)

/-- Rows 00E0 to 5XY0 of R93. -/
def opcodeRows05 : List OpcodeRow :=
  [⟨"CLS", 0x00E0, 0xFFFF, false⟩, ⟨"RET", 0x00EE, 0xFFFF, false⟩, ⟨"SCD_N", 0x00C0, 0xFFF0, false⟩,
   ⟨"SCR", 0x00FB, 0xFFFF, false⟩, ⟨"SCL", 0x00FC, 0xFFFF, false⟩, ⟨"LOW", 0x00FE, 0xFFFF, false⟩,
   ⟨"HIGH", 0x00FF, 0xFFFF, false⟩, ⟨"JP_NNN", 0x1000, 0xF000, false⟩, ⟨"CALL_NNN", 0x2000, 0xF000, false⟩,
   ⟨"SE_Vx__NN", 0x3000, 0xF000, false⟩, ⟨"SNE_Vx__NN", 0x4000, 0xF000, false⟩, ⟨"SE_Vx__Vy", 0x5000, 0xF00F, false⟩]

/-- Rows 6XNN to 9XY0 of R93. -/
def opcodeRows69 : List OpcodeRow :=
  [⟨"LD_Vx__NN", 0x6000, 0xF000, false⟩, ⟨"ADD_Vx__NN", 0x7000, 0xF000, false⟩, ⟨"LD_Vx__Vy", 0x8000, 0xF00F, false⟩,
   ⟨"OR_Vx__Vy", 0x8001, 0xF00F, false⟩, ⟨"AND_Vx__Vy", 0x8002, 0xF00F, false⟩, ⟨"XOR_Vx__Vy", 0x8003, 0xF00F, false⟩,
   ⟨"ADD_Vx__Vy", 0x8004, 0xF00F, false⟩, ⟨"SUB_Vx__Vy", 0x8005, 0xF00F, false⟩, ⟨"SHR_Vx", 0x8006, 0xF00F, false⟩,
   ⟨"SUBN_Vx__Vy", 0x8007, 0xF00F, false⟩, ⟨"SHL_Vx", 0x800E, 0xF00F, false⟩, ⟨"SNE_Vx__Vy", 0x9000, 0xF00F, false⟩]

/-- Rows ANNN to EXA1 of R93. -/
def opcodeRowsAE : List OpcodeRow :=
  [⟨"LD_I__NNN", 0xA000, 0xF000, false⟩, ⟨"JP_V0__NNN", 0xB000, 0xF000, false⟩, ⟨"RND_Vx__NN", 0xC000, 0xF000, false⟩,
   ⟨"DRW_Vx__Vy__N", 0xD000, 0xF000, true⟩, ⟨"DRW_Vx__Vy__0", 0xD000, 0xF00F, false⟩, ⟨"SKP_Vx", 0xE09E, 0xF0FF, false⟩,
   ⟨"SKNP_Vx", 0xE0A1, 0xF0FF, false⟩]

/-- Rows FX07 to FX65 of R93. -/
def opcodeRowsF : List OpcodeRow :=
  [⟨"LD_Vx__DT", 0xF007, 0xF0FF, false⟩, ⟨"LD_Vx__K", 0xF00A, 0xF0FF, false⟩, ⟨"LD_DT__Vx", 0xF015, 0xF0FF, false⟩,
   ⟨"LD_ST__Vx", 0xF018, 0xF0FF, false⟩, ⟨"ADD_I__Vx", 0xF01E, 0xF0FF, false⟩, ⟨"LD_F__Vx", 0xF029, 0xF0FF, false⟩,
   ⟨"LD_HF__Vx", 0xF030, 0xF0FF, false⟩, ⟨"LD_B__Vx", 0xF033, 0xF0FF, false⟩, ⟨"LD__I___Vx", 0xF055, 0xF0FF, false⟩,
   ⟨"LD_Vx___I", 0xF065, 0xF0FF, false⟩]

/-- The 41 rows of R93. -/
def opcodeMap : List OpcodeRow := opcodeRows05 ++ opcodeRows69 ++ opcodeRowsAE ++ opcodeRowsF

/-- The mnemonic of an instruction's row in spec/opcode_table.json. -/
def Instr.rowMnemonic : Instr → String
  | .cls => "CLS"
  | .ret => "RET"
  | .scd _ => "SCD_N"
  | .scr => "SCR"
  | .scl => "SCL"
  | .low => "LOW"
  | .high => "HIGH"
  | .jp _ => "JP_NNN"
  | .call _ => "CALL_NNN"
  | .seImm _ _ => "SE_Vx__NN"
  | .sneImm _ _ => "SNE_Vx__NN"
  | .seReg _ _ => "SE_Vx__Vy"
  | .ldImm _ _ => "LD_Vx__NN"
  | .addImm _ _ => "ADD_Vx__NN"
  | .ldReg _ _ => "LD_Vx__Vy"
  | .orReg _ _ => "OR_Vx__Vy"
  | .andReg _ _ => "AND_Vx__Vy"
  | .xorReg _ _ => "XOR_Vx__Vy"
  | .addReg _ _ => "ADD_Vx__Vy"
  | .sub _ _ => "SUB_Vx__Vy"
  | .shr _ _ => "SHR_Vx"
  | .subn _ _ => "SUBN_Vx__Vy"
  | .shl _ _ => "SHL_Vx"
  | .sneReg _ _ => "SNE_Vx__Vy"
  | .ldI _ => "LD_I__NNN"
  | .jpV0 _ => "JP_V0__NNN"
  | .rnd _ _ => "RND_Vx__NN"
  | .drw _ _ _ => "DRW_Vx__Vy__N"
  | .drw16 _ _ => "DRW_Vx__Vy__0"
  | .skp _ => "SKP_Vx"
  | .sknp _ => "SKNP_Vx"
  | .ldVxDt _ => "LD_Vx__DT"
  | .ldVxK _ => "LD_Vx__K"
  | .ldDtVx _ => "LD_DT__Vx"
  | .ldStVx _ => "LD_ST__Vx"
  | .addI _ => "ADD_I__Vx"
  | .ldF _ => "LD_F__Vx"
  | .ldHf _ => "LD_HF__Vx"
  | .ldB _ => "LD_B__Vx"
  | .ldMemVx _ => "LD__I___Vx"
  | .ldVxMem _ => "LD_Vx___I"

/-! ## The table's numbering of a word's bits -/

/-- The bytes of the instruction whose bits spec/opcode_table.json numbers as `w`, of which it gives `nbits`: the word is 16
bits with bit 0 its least significant (R8), its high byte stored at the lower address (R63); bits from `nbits` on are 0. -/
def tableBytes (nbits w : Nat) : List Byte :=
  let word : Word := BitVec.ofNat 16 (w % 2 ^ nbits)
  [highByte word, lowByte word]

/-- The instruction the decoder reads from an instruction whose bits are `w`, numbered as spec/opcode_table.json numbers them. -/
def decodeTableWord (nbits w : Nat) : Option Instr :=
  match decodeBytes (tableBytes nbits w) with
  | .ok (i, _) => some i
  | .error _ => none

end Sys2Proof
end

