-- ==== Sys2Proof/Config.lean ====
section
/-!
DEFINITION. The parameters of 00_scope.md R6 (fixed) and R7 (left open), and the free values: constants with no body, of
which nothing is known (92_eei_decisions.md D13, D22, D23).
-/

namespace Sys2Proof

namespace Config

/-- MEM_SIZE, R6. -/
abbrev memSize : Nat := 4096

/-- ORIGIN, where a loaded program begins, R6. -/
abbrev origin : Nat := 0x200

/-- ROM_MAX = MEM_SIZE − ORIGIN = 3584 bytes, R6. -/
abbrev romMax : Nat := memSize - origin

/-- FONT_SMALL_BASE, R6. -/
abbrev fontSmallBase : Nat := 0x000

/-- FONT_LARGE_BASE, R6. -/
abbrev fontLargeBase : Nat := 0x050

/-- The first address after both font tables, R6 and R71. -/
abbrev fontEnd : Nat := 0x0F0

/-- Glyphs 0 to 3 of FONT_SMALL, 92_eei_decisions.md D22. -/
def fontSmall03 : List Byte :=
  [0xF0, 0x90, 0x90, 0x90, 0xF0, 0x20, 0x60, 0x20, 0x20, 0x70,
   0xF0, 0x10, 0xF0, 0x80, 0xF0, 0xF0, 0x10, 0xF0, 0x10, 0xF0]

/-- Glyphs 4 to 7 of FONT_SMALL, D22. -/
def fontSmall47 : List Byte :=
  [0x90, 0x90, 0xF0, 0x10, 0x10, 0xF0, 0x80, 0xF0, 0x10, 0xF0,
   0xF0, 0x80, 0xF0, 0x90, 0xF0, 0xF0, 0x10, 0x20, 0x40, 0x40]

/-- Glyphs 8 to B of FONT_SMALL, D22. -/
def fontSmall8B : List Byte :=
  [0xF0, 0x90, 0xF0, 0x90, 0xF0, 0xF0, 0x90, 0xF0, 0x10, 0xF0,
   0xF0, 0x90, 0xF0, 0x90, 0x90, 0xE0, 0x90, 0xE0, 0x90, 0xE0]

/-- Glyphs C to F of FONT_SMALL, D22. -/
def fontSmallCF : List Byte :=
  [0xF0, 0x80, 0x80, 0x80, 0xF0, 0xE0, 0x90, 0x90, 0x90, 0xE0,
   0xF0, 0x80, 0xF0, 0x80, 0xF0, 0xF0, 0x80, 0xF0, 0x80, 0x80]

/-- The default of FONT_SMALL, 16 glyphs of 5 bytes, listed in D22 (PRESUMED by the spec from general knowledge; log 6). -/
def fontSmallBytes : List Byte := fontSmall03 ++ fontSmall47 ++ fontSmall8B ++ fontSmallCF

/-- The same default as a table of 80 bytes. -/
def fontSmall : Vector Byte 80 := ⟨fontSmallBytes.toArray, rfl⟩

/-- FONT_LARGE, byte k of its 160: OPEN in the spec (R7, D22), so a free value (log 5). -/
opaque fontLarge : Nat → Byte

/-- RNG: the byte of the n-th draw, under no law (R226, D23; log 2). -/
opaque rngByte : Nat → Byte

/-- TIMER_DUE of the delay timer at the n-th draw (R127, D13; log 3). -/
opaque delayDue : Nat → Bool

/-- TIMER_DUE of the sound timer at the n-th draw (R127, D13; log 3). -/
opaque soundDue : Nat → Bool

/-- The host clock's n-th reading, in units of 1/`clockHz` second: used only by the clocked refinement (R127, D13; log 4). -/
opaque clock : Nat → Nat

/-- How many clock units make a second, so that TIMER_PERIOD = 1/60 s is `clockHz` / 60 units (R6, R127; log 4). -/
opaque clockHz : Nat

end Config

/-- VF_ALIAS (R7, R211, D3): what the result statement of a flag-writing instruction reads. -/
inductive VfAlias where
  /-- Each statement reads the registers as the statements before it left them. -/
  | sequential
  /-- Every read sees the registers at the start of step 3. -/
  | snapshot
  deriving DecidableEq, Repr

/-- ODD_PC_POLICY (R7, R65, D7). -/
inductive OddPcPolicy where
  /-- A fetch at an odd pc raises MisalignedFetch. -/
  | fault
  /-- A fetch at an odd pc reads the two bytes like any other. -/
  | fetch
  deriving DecidableEq, Repr

/-- UNKNOWN_WORD_POLICY (R7, R129, R311, D2). -/
inductive UnknownWordPolicy where
  /-- A logged no-op, the source's rule. -/
  | nop
  /-- The model gives the word no meaning. -/
  | refuse
  deriving DecidableEq, Repr

/-- SPRITE_H_EDGE (R7, R151, D5): the bits of a sprite row past the right edge. -/
inductive SpriteEdge where
  /-- They are skipped. -/
  | clip
  /-- They wrap to the columns at the left. -/
  | wrap
  deriving DecidableEq, Repr

/-- KEY_INDEX_POLICY (R7, R270, D9). -/
inductive KeyIndexPolicy where
  /-- A key index of 16 or more raises KeyIndexError. -/
  | fault
  /-- Only the low four bits count. -/
  | mask
  deriving DecidableEq, Repr

/-- TIMER_DUE (R7, D13): a draw, or computed from a host clock. -/
inductive TimerSource where
  /-- A free Boolean per timer per tick. -/
  | drawn
  /-- At least 1/60 s since the timer's last decrement. -/
  | clocked
  deriving DecidableEq, Repr

/-- The parameters of R7 that the model takes as an argument. They stand in State, are never changed by a step, and at reset
have the defaults of R7 (log 1). -/
structure Params where
  /-- VF_ALIAS. -/
  vfAlias : VfAlias
  /-- STACK_DEPTH, a positive number. -/
  stackDepth : ℕ+
  /-- ODD_PC_POLICY. -/
  oddPc : OddPcPolicy
  /-- UNKNOWN_WORD_POLICY. -/
  unknownWord : UnknownWordPolicy
  /-- SPRITE_H_EDGE. -/
  spriteEdge : SpriteEdge
  /-- KEY_INDEX_POLICY. -/
  keyIndex : KeyIndexPolicy
  /-- Whether TIMER_DUE is drawn or clocked. -/
  timerSource : TimerSource
  /-- FONT_SMALL: the 80 bytes a reset puts at FONT_SMALL_BASE (D22; log 6). -/
  fontSmall : Vector Byte 80
  deriving DecidableEq, Repr

/-- The defaults of R7. DESIGN CHOICE: R7 gives TIMER_DUE no default; D13 describes the draw first (log 4). -/
def Params.default : Params :=
  { vfAlias := .sequential, stackDepth := 16, oddPc := .fault, unknownWord := .nop, spriteEdge := .clip,
    keyIndex := .fault, timerSource := .drawn, fontSmall := Config.fontSmall }

end Sys2Proof
end

