-- ==== Sys2Proof/Machine/Grid.lean ====
section
/-!
DEFINITION. The framebuffer's pixels as plain data and its primitives (10_state.md R32; 41_display.md R150 to R154). A grid is
a list of rows, each a list of pixels, `true` being lit; the width and height are those of the resolution (log 19).
-/

namespace Sys2Proof.Machine

/-- The framebuffer's resolution (R32). -/
inductive Resolution where
  /-- 64 × 32. -/
  | low
  /-- 128 × 64. -/
  | high
  deriving DecidableEq, Repr

/-- W(res), R32. -/
def Resolution.width : Resolution → Nat
  | .low => 64
  | .high => 128

/-- H(res), R32. -/
def Resolution.height : Resolution → Nat
  | .low => 32
  | .high => 64

/-- Rows of pixels, top row first, leftmost pixel first (R32). -/
abbrev Grid := List (List Bool)

/-- The pixel at column x, row y; a place outside the grid reads as unlit. -/
def Grid.pixel (g : Grid) (x y : Nat) : Bool := (g.getD y []).getD x false

/-- The grid of W × H pixels that has `f x y` at column x, row y. -/
def Grid.build (w h : Nat) (f : Nat → Nat → Bool) : Grid :=
  (List.range h).map fun y => (List.range w).map fun x => f x y

/-- A grid of W × H unlit pixels (R150, R154). -/
def Grid.blank (w h : Nat) : Grid := List.replicate h (List.replicate w false)

/-- Flip one pixel of the grid (R151). -/
def Grid.flip (g : Grid) (x y : Nat) : Grid := g.modify y (fun row => row.modify x (fun p => !p))

/-- Whether the grid is W × H. -/
abbrev Grid.sized (w h : Nat) (g : Grid) : Prop := g.length = h ∧ ∀ row ∈ g, row.length = w

/-- The column that bit i of a row starting at x0 falls on: past the right edge it is skipped or wraps, as SPRITE_H_EDGE
says (R151, R152). -/
def spriteColumn (w : Nat) (edge : SpriteEdge) (xi : Nat) : Option Nat :=
  if xi < w then some xi
  else match edge with
    | .clip => none
    | .wrap => some (xi % w)

/-- Draw the bits numbered by the list, bit 0 being the MSB: a 1 bit flips its pixel, and a flip from lit to unlit is a
collision (R151). -/
def Grid.drawBits (w : Nat) (edge : SpriteEdge) (x0 y0 : Nat) (b : Byte) : List Nat → Grid → Bool → Grid × Bool
  | [], g, col => (g, col)
  | i :: is, g, col =>
    if b.getLsbD (7 - i) then
      match spriteColumn w edge (x0 + i) with
      | none => Grid.drawBits w edge x0 y0 b is g col
      | some xi => Grid.drawBits w edge x0 y0 b is (g.flip xi y0) (col || g.pixel xi y0)
    else Grid.drawBits w edge x0 y0 b is g col

/-- `fb.drawRow(x, y, b)`: the grid after it and whether a collision happened (R151, R152). -/
def Grid.drawRow (w h : Nat) (edge : SpriteEdge) (x y : Nat) (b : Byte) (g : Grid) : Grid × Bool :=
  Grid.drawBits w edge (x % w) (y % h) b [0, 1, 2, 3, 4, 5, 6, 7] g false

/-- `fb.scrollDown(n)`: row y goes to row (y + n) mod H (R153). -/
def Grid.scrollDown (w h n : Nat) (g : Grid) : Grid :=
  Grid.build w h fun x y => g.pixel x ((y + (h - n % h)) % h)

/-- `fb.scrollRight(n)`: column x goes to column (x + n) mod W (R153). -/
def Grid.scrollRight (w h n : Nat) (g : Grid) : Grid :=
  Grid.build w h fun x y => g.pixel ((x + (w - n % w)) % w) y

/-- `fb.scrollLeft(n)`: column x goes to column (x − n) mod W (R153). -/
def Grid.scrollLeft (w h n : Nat) (g : Grid) : Grid :=
  Grid.build w h fun x y => g.pixel ((x + n) % w) y

end Sys2Proof.Machine
end

