-- ==== Sys2Proof/Machine/Memory.lean ====
section
/-!
DEFINITION. The memory as plain data (20_memory.md R60, R68, R71): a list of (address, byte) pairs in one canonical form, its
unlisted addresses reading as the reset contents under the default small font; and memory after a full reset. Bounds are
checked one layer up, in Machine/Ops.lean (R61).
-/

namespace Sys2Proof.Machine

/-- The bytes that differ from the default reset contents, addresses strictly rising (log 8). -/
abbrev Memory := List Host.Cell

/-- What an unlisted address reads as: the reset contents under the default small font, which are that font at 0x000..0x04F,
FONT_LARGE at 0x050..0x0EF, 0 elsewhere (10_state.md R37; 20_memory.md R71; 70_reset_and_hazards.md R350; log 8). -/
def resetByte (a : Nat) : Byte :=
  if a < Config.fontLargeBase then Config.fontSmallBytes.getD (a - Config.fontSmallBase) 0
  else if a < Config.fontEnd then Config.fontLarge (a - Config.fontLargeBase)
  else 0

/-- The byte at an address. -/
def Memory.read : Memory → Nat → Byte
  | [], a => resetByte a
  | (b, v) :: m, a => if a = b then v else Memory.read m a

/-- Store a byte at an address, keeping the canonical form: storing what an unlisted address reads as removes the entry. -/
def Memory.write : Memory → Nat → Byte → Memory
  | [], a, v => if v = resetByte a then [] else [(a, v)]
  | (b, u) :: m, a, v =>
    if a < b then (if v = resetByte a then (b, u) :: m else (a, v) :: (b, u) :: m)
    else if a = b then (if v = resetByte a then m else (a, v) :: m)
    else (b, u) :: Memory.write m a v

/-- Store bytes at increasing addresses from `a` on. -/
def Memory.writeList : Memory → Nat → List Byte → Memory
  | m, _, [] => m
  | m, a, v :: vs => Memory.writeList (Memory.write m a v) (a + 1) vs

/-- Memory after a full reset: the small font at FONT_SMALL_BASE, everything else as an unlisted address reads (R37, R71, R350). -/
def Memory.reset (fontSmall : Vector Byte 80) : Memory := Memory.writeList [] Config.fontSmallBase fontSmall.toList

/-- The canonical form: addresses strictly rising, inside the address space, no entry equal to what an unlisted address reads as. -/
abbrev Memory.wf (m : Memory) : Prop :=
  m.Pairwise (fun c d => c.1 < d.1) ∧ ∀ c ∈ m, c.1 < Config.memSize ∧ c.2 ≠ resetByte c.1

end Sys2Proof.Machine
end

