-- ==== Sys2Proof/Machine/State.lean ====
section
/-!
DEFINITION. Everything the spec gives the machine, as plain data (10_state.md R20 to R37), the host's inputs (60_exceptions.md
R320 to R331), the reasons a step can stop, and the state after reset (10_state.md R37; 70_reset_and_hazards.md R350).
-/

namespace Sys2Proof.Machine

/-- The lifecycle state (10_state.md R35). -/
inductive RunState where
  /-- No program loaded. -/
  | idle
  /-- A program is in memory. -/
  | loaded
  /-- Cycles run. -/
  | running
  /-- The host has paused the machine. -/
  | paused
  /-- A fatal error has stopped the machine (60_exceptions.md R301). -/
  | faulted
  deriving DecidableEq, Repr

/-- What a memory access was for (20_memory.md R61). -/
inductive AccessKind where
  /-- Instruction fetch. -/
  | fetch
  /-- A data read. -/
  | read
  /-- A data write. -/
  | write
  deriving DecidableEq, Repr

/-- The fatal errors with the info they record (60_exceptions.md R300). -/
inductive FatalError where
  /-- A memory access outside [0, MEM_SIZE). -/
  | bounds (addr : Nat) (kind : AccessKind)
  /-- 00EE with an empty call stack. -/
  | stackUnderflow
  /-- 2NNN with STACK_DEPTH entries on the stack. -/
  | stackOverflow (depth : Nat)
  /-- A fetch at an odd pc under ODD_PC_POLICY = fault. -/
  | misalignedFetch (pc : Word)
  /-- EX9E or EXA1 with V[X] ≥ 16 under KEY_INDEX_POLICY = fault. -/
  | keyIndex (v : Byte)
  deriving DecidableEq, Repr

/-- The codes of R300. -/
def FatalError.code : FatalError → Nat
  | .bounds _ _ => 1
  | .stackUnderflow => 2
  | .stackOverflow _ => 3
  | .misalignedFetch _ => 4
  | .keyIndex _ => 5

/-- The record of the fatal error that entered Faulted (10_state.md R35; 60_exceptions.md R301). -/
structure FaultRecord where
  /-- The error with its info. -/
  error : FatalError
  /-- The address of the instruction that failed. -/
  pc : Word
  /-- The fetched word; absent for a fetch error. -/
  word : Option Word
  deriving DecidableEq, Repr

/-- An event the diagnostic sink receives (60_exceptions.md R310, R334). -/
inductive Diagnostic where
  /-- `Unknown(w, off)` with off = pc − ORIGIN, a signed integer. -/
  | unknown (w : Word) (off : Int)
  deriving DecidableEq, Repr

/-- A host operation (60_exceptions.md R321 to R327; 70_reset_and_hazards.md R354). -/
inductive HostOp where
  /-- loadProgram(bytes), R354. -/
  | loadProgram (bytes : List Byte)
  /-- play(), R321. -/
  | play
  /-- pause(), R322. -/
  | pause
  /-- resume(), R323. -/
  | resume
  /-- stop(), R326. -/
  | stop
  /-- stepOneCycle(), R324. -/
  | stepOneCycle
  /-- executeRawInstruction(w), R325. -/
  | executeRaw (w : Word)
  /-- getFramebufferView(), R327. -/
  | getFramebufferView
  /-- getInputStateHandle(), R327. -/
  | getInputStateHandle
  deriving DecidableEq, Repr

/-- One input of the schedule: the step it stands for (60_exceptions.md R320). -/
inductive Event where
  /-- A CORE step: a cycle or a key-wait completion. -/
  | core
  /-- A host operation. -/
  | host (op : HostOp)
  /-- A keypad event setDown(k, b), R331. -/
  | setDown (k : Nibble) (b : Bool)
  deriving DecidableEq, Repr

/-- What a host operation reports to its caller. -/
inductive Reply where
  /-- The operation was admitted. -/
  | accepted
  /-- The operation is outside its admitted states: no state change (92_eei_decisions.md D31). -/
  | rejected
  /-- The load error LoadOversize (60_exceptions.md R312; 70_reset_and_hazards.md R356). -/
  | loadOversize
  /-- The caller is blocked until a keypad event sets `pressed` (R324). -/
  | blocked
  /-- The framebuffer view (res, W, H, fb), R327. -/
  | view (res : Resolution) (w h : Nat) (fb : Grid)
  /-- The keypad's setDown entry point, R327. -/
  | inputHandle
  deriving DecidableEq, Repr

/-- Why a step gives no next state though nothing is left unmodelled. Each is a state in which the spec enables no CORE step. -/
inductive Fault where
  /-- Raised by a CORE step in Faulted: the machine has stopped with this fatal error (60_exceptions.md R302; 10_state.md R35).
  Safe: the spec has no CORE step there (log 9). -/
  | faulted (record : Option FaultRecord)
  /-- Raised by a CORE step in Idle, Loaded or Paused, where no cycle runs (60_exceptions.md R320, R338). Safe (log 10). -/
  | notRunning (run : RunState)
  /-- Raised by a CORE step while FX0A waits and no key edge has come: the hang of U8 (45_keys_timers.md R279). Safe (log 22). -/
  | keyWait (x : Reg)
  /-- Raised by stepOneCycle while FX0A waits and no key edge has come: the caller is blocked (60_exceptions.md R324). Safe (log 22). -/
  | stepBlocked
  deriving DecidableEq, Repr

/-- Why a step has no meaning in the model. -/
inductive Refusal where
  /-- Raised by `exec` for an instruction that has no meaning yet. Safe. -/
  | notModelled (mnemonic : String)
  /-- Raised by the cycle for an unknown word under UNKNOWN_WORD_POLICY = refuse, and by nothing else
  (40_cycle.md R129; 60_exceptions.md R311). Safe: the refusal ends the run (log 13). -/
  | unknownWord (w : Word)
  deriving DecidableEq, Repr

/-- The machine's state: the spec's, and after it the five fields of the model's own. -/
structure State where
  /-- V0..VF (R20). -/
  v : Vector Byte 16
  /-- The address register I (R25). -/
  i : Word
  /-- The program counter (R27). -/
  pc : Word
  /-- The call stack, most recently pushed entry first (R28; log 20). -/
  stack : List Word
  /-- The delay timer DT (R29). -/
  dt : Byte
  /-- The sound timer ST (R29). -/
  st : Byte
  /-- DT.last, the clock reading at DT's last decrement (R30). -/
  dtLast : Nat
  /-- ST.last, the clock reading at ST's last decrement (R30). -/
  stLast : Nat
  /-- The 4096 bytes of memory (R60). -/
  mem : Memory
  /-- The framebuffer's resolution (R32). -/
  res : Resolution
  /-- The framebuffer's pixels (R32). -/
  fb : Grid
  /-- The key-down flags (R34). -/
  keys : Vector Bool 16
  /-- The last-key-pressed latch (R34). -/
  lastKey : Nibble
  /-- A key was pressed since the last wait began (R34). -/
  pressed : Bool
  /-- The lifecycle state (R35). -/
  run : RunState
  /-- none, or waiting(X) (R35). -/
  wait : Option Reg
  /-- none, or the record of the fatal error (R35). -/
  fault : Option FaultRecord
  /-- The model's own: the parameters of R7 (log 1). -/
  params : Params
  /-- The model's own: how many timer draws or clock readings have been taken (log 3). -/
  tickCount : Nat
  /-- The model's own: how many RNG bytes have been drawn (log 2). -/
  rngCount : Nat
  /-- The model's own: what the diagnostic sink has received, oldest first (R334; log 12). -/
  diag : List Diagnostic
  /-- The model's own: the inputs still to come, next first (R320, R36; log 10). -/
  schedule : List Event
  deriving DecidableEq, Repr

/-- The state after a full reset, which is also the state the machine is created in: the table of R37, with the default
parameters of R7. The model's own fields and the two timestamps have the values log 4 and log 14 name. -/
def State.reset : State :=
  { v := Vector.replicate 16 0
    i := 0
    pc := 0x200
    stack := []
    dt := 0
    st := 0
    dtLast := 0
    stLast := 0
    mem := []
    res := .low
    fb := Grid.blank Resolution.low.width Resolution.low.height
    keys := Vector.replicate 16 false
    lastKey := 0
    pressed := false
    run := .idle
    wait := none
    fault := none
    params := Params.default
    tickCount := 0
    rngCount := 0
    diag := []
    schedule := [] }

end Sys2Proof.Machine
end

