-- ==== Sys2Proof/Machine/Operands.lean ====
section
/-!
DEFINITION. Reading and writing every operand an instruction names: the registers (10_state.md R20 to R28), immediates
(30_encoding.md R91), effective addresses (20_memory.md R62; 44_index_memory.md R240), key indices (45_keys_timers.md R270),
glyph addresses and decimal digits (44_index_memory.md R247 to R249).
-/

namespace Sys2Proof.Machine

/-! ## Registers -/

/-- `V[r]` (R10, R20). -/
def State.getV (s : State) (r : Reg) : Byte := s.v[r.toNat]'r.isLt

/-- `V[r] <- b` (R10, R20). -/
def State.setV (s : State) (r : Reg) (b : Byte) : State := { s with v := s.v.set r.toNat b r.isLt }

/-- `I <- a` (R10, R25). -/
def State.setI (s : State) (a : Word) : State := { s with i := a }

/-- `pc <- a` (R10, R27). -/
def State.setPc (s : State) (a : Word) : State := { s with pc := a }

/-- Replace the call stack (R28). -/
def State.setStack (s : State) (l : List Word) : State := { s with stack := l }

/-- `DT.value <- b` (R29). -/
def State.setDt (s : State) (b : Byte) : State := { s with dt := b }

/-- `ST.value <- b` (R29). -/
def State.setSt (s : State) (b : Byte) : State := { s with st := b }

/-- Replace memory (R60). -/
def State.setMem (s : State) (m : Memory) : State := { s with mem := m }

/-- Replace the framebuffer's pixels (R32). -/
def State.setFb (s : State) (g : Grid) : State := { s with fb := g }

/-- The index of register k of a block transfer V0..Vx (R250, R251). -/
def regOfNat (k : Nat) : Reg := BitVec.ofNat 4 k

/-! ## Immediates: unsigned and zero-extended (R9, R91) -/

/-- A byte as a 16-bit word. -/
def wordOfByte (b : Byte) : Word := b.setWidth 16

/-- NNN as a 16-bit word. -/
def wordOfAddr (a : Addr) : Word := a.setWidth 16

/-- A key index as the byte FX0A writes (R279). -/
def byteOfNibble (k : Nibble) : Byte := k.setWidth 8

/-! ## Effective addresses: unbounded integers, never reduced (R62, R240) -/

/-- `I + k`. -/
def State.ea (s : State) (k : Nat) : Nat := s.i.toNat + k

/-! ## Key index (R270) -/

/-- `keyIndex(v)`: the key, or the fatal error. -/
def keyIndex (policy : KeyIndexPolicy) (v : Byte) : Except FatalError Nibble :=
  if v.toNat < 16 then .ok (BitVec.ofNat 4 v.toNat)
  else match policy with
    | .fault => .error (.keyIndex v)
    | .mask => .ok (BitVec.ofNat 4 v.toNat)

/-- `isDown(k)` (R34). -/
def State.isDown (s : State) (k : Nibble) : Bool := s.keys[k.toNat]'k.isLt

/-! ## Glyph addresses and decimal digits -/

/-- The address of a small-font glyph: `(v & 0xF) * 5` (R247). -/
def smallGlyph (v : Byte) : Word := wordOfByte (v &&& 0xF) * 5

/-- The address of an extended-font glyph: `0x50 + (v & 0xF) * 10` (R248). -/
def largeGlyph (v : Byte) : Word := 0x50 + wordOfByte (v &&& 0xF) * 10

/-- The hundreds, tens and ones of a byte (R249). -/
def bcdDigits (v : Byte) : List Byte :=
  [BitVec.ofNat 8 (v.toNat / 100), BitVec.ofNat 8 (v.toNat / 10 % 10), BitVec.ofNat 8 (v.toNat % 10)]

end Sys2Proof.Machine
end

