-- ==== Sys2Proof/Machine/Flags.lean ====
section
/-!
DEFINITION. Every flag the spec computes (43_alu.md R210, R221 to R225; 41_display.md R161, R162) and the order in which a
flag and a result are written (43_alu.md R211; 92_eei_decisions.md D3). Operands become exact integers first, and a result is
narrowed at the end (00_scope.md R9).
-/

namespace Sys2Proof.Machine

/-- The carry of a sum of bytes: the exact sum is over 255 (R221). -/
def carryFlag (a b : Byte) : Byte := byteOfBool (decide (255 < a.toNat + b.toNat))

/-- "No borrow": minuend ≥ subtrahend (R222, R224). -/
def noBorrowFlag (minuend subtrahend : Byte) : Byte := byteOfBool (decide (subtrahend.toNat ≤ minuend.toNat))

/-- The bit a right shift by one moves out: bit 0 (R223). -/
def shrFlag (a : Byte) : Byte := a &&& 0x1

/-- The bit a left shift by one moves out: bit 7 (R225). -/
def shlFlag (a : Byte) : Byte := (a >>> 7) &&& 0x1

/-- The collision flag of a draw, written as 1 or 0 (R161, R162, D4). -/
def collisionFlag (col : Bool) : Byte := byteOfBool col

/-- `VF <- flag` and then `V[x] <- result`. What the result statement's register reads see is VF_ALIAS: the state after the flag
write, or the state before both (R211). -/
def flagThenResult (s : State) (x : Reg) (flag : Byte) (result : State → Byte) : State :=
  let flagged := s.setV Reg.flag flag
  let source := match s.params.vfAlias with
    | .sequential => flagged
    | .snapshot => s
  flagged.setV x (result source)

end Sys2Proof.Machine
end

