-- ==== Sys2Proof/Machine/Ops.lean ====
section
/-!
DEFINITION. The named operations every meaning is built from: raising a fatal error (60_exceptions.md R301), bounds-checked
memory (20_memory.md R61), the call stack (10_state.md R28), the bias convention (40_cycle.md R126), framebuffer access
(41_display.md R150 to R154), the timer tick and the end of a cycle (40_cycle.md R125, R127), and the full reset
(70_reset_and_hazards.md R350). There is no return from a fatal error but that reset (60_exceptions.md R304).
-/

namespace Sys2Proof.Machine

/-! ## Fatal errors -/

/-- Enter Faulted: record the error, the address of the failing instruction and its word. Nothing else changes: pc is kept, and
so is every write already made (R301). -/
def State.raise (s : State) (e : FatalError) (word : Option Word) : State :=
  { s with run := .faulted, fault := some ⟨e, s.pc, word⟩ }

/-- Raise a fatal error while executing an instruction; its word is the encoding of the instruction (R301; log 21). -/
def State.raiseIn (s : State) (e : FatalError) (ins : Instr) : State := s.raise e (some (encode ins))

/-! ## Memory -/

/-- `MemRead(a, 1)`, for a fetch or a data read (R61). -/
def State.memRead (s : State) (kind : AccessKind) (a : Nat) : Except FatalError Byte :=
  if a < Config.memSize then .ok (s.mem.read a) else .error (.bounds a kind)

/-- `MemWrite(a, 1, b)` (R61). -/
def State.memWrite (s : State) (a : Nat) (b : Byte) : Except FatalError State :=
  if a < Config.memSize then .ok (s.setMem (s.mem.write a b)) else .error (.bounds a .write)

/-- Store bytes at `a`, `a + 1`, ... in that order, stopping at the first address outside memory; what was stored before it stays
stored (R64, R240, R301). -/
def storeBytes (ins : Instr) : Nat → List Byte → State → State
  | _, [], s => s
  | a, b :: bs, s =>
    match s.memWrite a b with
    | .error e => s.raiseIn e ins
    | .ok s' => storeBytes ins (a + 1) bs s'

/-- Load the registers of the list, in that order, from `a`, `a + 1`, ..., stopping at the first address outside memory; the
registers loaded before it keep their new values (R251, R301). -/
def loadRegs (ins : Instr) : Nat → List Reg → State → State
  | _, [], s => s
  | a, r :: rs, s =>
    match s.memRead .read a with
    | .error e => s.raiseIn e ins
    | .ok b => loadRegs ins (a + 1) rs (s.setV r b)

/-- The registers V0..Vx of a block transfer, V0 first (R250, R251). -/
def blockRegs (x : Reg) : List Reg := (List.range (x.toNat + 1)).map regOfNat

/-! ## The call stack (R28) -/

/-- `push(v)`: StackOverflow when STACK_DEPTH entries are there. -/
def State.push (s : State) (a : Word) : Except FatalError State :=
  if s.params.stackDepth ≤ s.stack.length then .error (.stackOverflow s.stack.length)
  else .ok (s.setStack (a :: s.stack))

/-- `pop()`: StackUnderflow when the stack is empty; otherwise the most recently pushed entry and the state without it. -/
def State.pop (s : State) : Except FatalError (Word × State) :=
  match s.stack with
  | [] => .error .stackUnderflow
  | a :: rest => .ok (a, s.setStack rest)

/-! ## Control transfer: the bias convention (R126) -/

/-- Set pc to the target minus 2; step 5 of the cycle adds the 2 back. -/
def State.jump (s : State) (target : Word) : State := s.setPc (target - 2)

/-- Skip the next instruction when the condition holds: pc + 2 here, and step 5 adds 2 more. -/
def State.skipIf (s : State) (c : Bool) : State := if c then s.setPc (s.pc + 2) else s

/-! ## The framebuffer -/

/-- W(res). -/
def State.width (s : State) : Nat := s.res.width

/-- H(res). -/
def State.height (s : State) : Nat := s.res.height

/-- `fb.clear()`: every pixel of the current grid unlit, `res` unchanged (R150). -/
def State.clearScreen (s : State) : State := s.setFb (Grid.blank s.width s.height)

/-- `fb.setLowRes()`, `fb.setHighRes()`: select the resolution and clear the whole new grid (R154). -/
def State.setResolution (s : State) (r : Resolution) : State :=
  { s with res := r, fb := Grid.blank r.width r.height }

/-- One sprite byte to draw: where it is read and where its row starts (R161, R162). -/
structure SpritePart where
  /-- The address of the byte. -/
  addr : Nat
  /-- The column the row starts at, before reduction mod W. -/
  x : Nat
  /-- The row, before reduction mod H. -/
  y : Nat
  deriving DecidableEq, Repr

/-- The N parts of DXYN: row r from I + r at (x, y + r) (R161). -/
def spriteParts8 (i x y n : Nat) : List SpritePart := (List.range n).map fun r => ⟨i + r, x, y + r⟩

/-- The 32 parts of DXY0: for each of 16 rows the left half and then the right half, 8 columns further (R162). -/
def spriteParts16 (i x y : Nat) : List SpritePart :=
  (List.range 16).flatMap fun r => [⟨i + 2 * r, x, y + r⟩, ⟨i + 2 * r + 1, x + 8, y + r⟩]

/-- Draw the parts in order, or-ing the collisions, and write VF once after the last one. A part whose byte lies outside memory
raises BoundsError: the parts drawn before it stay drawn and VF is not written (R161, R162, R301). -/
def drawParts (ins : Instr) : List SpritePart → Bool → State → State
  | [], col, s => s.setV Reg.flag (collisionFlag col)
  | p :: ps, col, s =>
    match s.memRead .read p.addr with
    | .error e => s.raiseIn e ins
    | .ok b =>
      let drawn := Grid.drawRow s.width s.height s.params.spriteEdge p.x p.y b s.fb
      drawParts ins ps (col || drawn.2) (s.setFb drawn.1)

/-! ## Inputs and outputs -/

/-- The state once its next input is taken from the schedule: with none to come, the state itself (60_exceptions.md R320; log 10). -/
def State.dequeue (s : State) : State := { s with schedule := s.schedule.tail }

/-- The signal "play a tone": ST ≠ 0 (10_state.md R31; 60_exceptions.md R332). -/
def State.tone (s : State) : Bool := s.st != 0

/-- Give the diagnostic sink an `Unknown(w, pc − ORIGIN)` event (60_exceptions.md R310, R334). -/
def State.logUnknown (s : State) (w : Word) : State :=
  { s with diag := s.diag ++ [.unknown w ((s.pc.toNat : Int) - (Config.origin : Int))] }

/-! ## Time (40_cycle.md R127; 92_eei_decisions.md D13) -/

/-- The host clock's reading at this tick or reset (log 4). -/
def State.now (s : State) : Nat := Config.clock s.tickCount

/-- The clocked refinement's `due`: at least 1/60 s from `last` to the reading. -/
def clockedDue (now last : Nat) : Bool := decide (60 * last + Config.clockHz ≤ 60 * now)

/-- TIMER_DUE of DT for this tick. -/
def State.delayDue (s : State) : Bool :=
  match s.params.timerSource with
  | .drawn => Config.delayDue s.tickCount
  | .clocked => clockedDue s.now s.dtLast

/-- TIMER_DUE of ST for this tick. -/
def State.soundDue (s : State) : Bool :=
  match s.params.timerSource with
  | .drawn => Config.soundDue s.tickCount
  | .clocked => clockedDue s.now s.stLast

/-- `T.last` after a decrement: the clock's reading, in the clocked refinement only. -/
def State.stamp (s : State) (last : Nat) : Nat :=
  match s.params.timerSource with
  | .drawn => last
  | .clocked => s.now

/-- The value of a timer after one tick: one less when it is not 0 and due. -/
def tickedValue (due : Bool) (value : Byte) : Byte := if value != 0 && due then value - 1 else value

/-- The timestamp of a timer after one tick: the clock's reading when it decrements. -/
def State.tickedLast (s : State) (due : Bool) (value : Byte) (last : Nat) : Nat :=
  if value != 0 && due then s.stamp last else last

/-- `tick(DT, due)`. -/
def State.tickDelay (s : State) : State :=
  { s with dt := tickedValue s.delayDue s.dt, dtLast := s.tickedLast s.delayDue s.dt s.dtLast }

/-- `tick(ST, due)`. -/
def State.tickSound (s : State) : State :=
  { s with st := tickedValue s.soundDue s.st, stLast := s.tickedLast s.soundDue s.st s.stLast }

/-- Step 4 of a cycle: tick DT and then ST, with this tick's draws or clock reading (R120, R127). -/
def State.tickTimers (s : State) : State :=
  { s.tickDelay.tickSound with tickCount := s.tickCount + 1 }

/-- Step 5 of a cycle: `pc <- (pc + 2) mod 2^16` (R125). -/
def State.advance (s : State) : State := s.setPc (s.pc + 2)

/-- The random byte of this execution of CXNN, and the state that has drawn it (43_alu.md R226; log 2). -/
def State.drawByte (s : State) : Byte × State :=
  (Config.rngByte s.rngCount, { s with rngCount := s.rngCount + 1 })

/-! ## Reset -/

/-- The state a machine with these parameters is created in (R37, D30): `State.reset`, whose parameters are the defaults, but for
the parameters and the small font in memory (log 1, log 6). -/
def State.created (p : Params) : State := { State.reset with mem := Memory.reset p.fontSmall, params := p }

/-- The full reset of R350: every piece of the spec's state at its value of R37, the timestamps at the time of the reset. The
model's own fields go on: parameters, draws taken, events received by the sink, inputs still to come (log 14). -/
def State.fullReset (s : State) : State :=
  { State.created s.params with
    dtLast := s.now
    stLast := s.now
    tickCount := s.tickCount + 1
    rngCount := s.rngCount
    diag := s.diag
    schedule := s.schedule }

end Sys2Proof.Machine
end

