-- ==== Sys2Proof/Machine/Alu.lean ====
section
/-!
DEFINITION. Step 3 of register arithmetic and logic (43_alu.md R210, R211, R215 to R226). Bytes add, subtract and shift modulo
256 (R210); the flag-writing rules write VF before Vx (R211).
-/

namespace Sys2Proof.Machine

/-- LD Vx, NN, R215. -/
def execLdImm (x : Reg) (nn : Byte) (s : State) : Host.Outcome State Fault Refusal := .next (s.setV x nn)

/-- ADD Vx, NN, R216: VF is no carry here. -/
def execAddImm (x : Reg) (nn : Byte) (s : State) : Host.Outcome State Fault Refusal :=
  .next (s.setV x (s.getV x + nn))

/-- LD Vx, Vy, R217. -/
def execLdReg (x y : Reg) (s : State) : Host.Outcome State Fault Refusal := .next (s.setV x (s.getV y))

/-- OR Vx, Vy, R218. -/
def execOrReg (x y : Reg) (s : State) : Host.Outcome State Fault Refusal :=
  .next (s.setV x (s.getV x ||| s.getV y))

/-- AND Vx, Vy, R219. -/
def execAndReg (x y : Reg) (s : State) : Host.Outcome State Fault Refusal :=
  .next (s.setV x (s.getV x &&& s.getV y))

/-- XOR Vx, Vy, R220. -/
def execXorReg (x y : Reg) (s : State) : Host.Outcome State Fault Refusal :=
  .next (s.setV x (s.getV x ^^^ s.getV y))

/-- ADD Vx, Vy, R221: the sum is taken before VF is written, so VF_ALIAS makes no difference. -/
def execAddReg (x y : Reg) (s : State) : Host.Outcome State Fault Refusal :=
  let sum := s.getV x + s.getV y
  .next (flagThenResult s x (carryFlag (s.getV x) (s.getV y)) fun _ => sum)

/-- SUB Vx, Vy, R222. -/
def execSub (x y : Reg) (s : State) : Host.Outcome State Fault Refusal :=
  .next (flagThenResult s x (noBorrowFlag (s.getV x) (s.getV y)) fun t => t.getV x - t.getV y)

/-- SHR Vx, R223; Vy is neither read nor written. -/
def execShr (x _y : Reg) (s : State) : Host.Outcome State Fault Refusal :=
  .next (flagThenResult s x (shrFlag (s.getV x)) fun t => t.getV x >>> 1)

/-- SUBN Vx, Vy, R224. -/
def execSubn (x y : Reg) (s : State) : Host.Outcome State Fault Refusal :=
  .next (flagThenResult s x (noBorrowFlag (s.getV y) (s.getV x)) fun t => t.getV y - t.getV x)

/-- SHL Vx, R225; Vy is neither read nor written. -/
def execShl (x _y : Reg) (s : State) : Host.Outcome State Fault Refusal :=
  .next (flagThenResult s x (shlFlag (s.getV x)) fun t => t.getV x <<< 1)

/-- RND Vx, NN, R226: a byte the model does not choose, masked. -/
def execRnd (x : Reg) (nn : Byte) (s : State) : Host.Outcome State Fault Refusal :=
  .next (s.drawByte.2.setV x (s.drawByte.1 &&& nn))

end Sys2Proof.Machine
end

