-- ==== Sys2Proof/Machine/Display.lean ====
section
/-!
DEFINITION. Step 3 of the display instructions (41_display.md R155 to R162).
-/

namespace Sys2Proof.Machine

/-- CLS, R155: `fb.clear()`. -/
def execCls (s : State) : Host.Outcome State Fault Refusal := .next s.clearScreen

/-- SCD N, R156: `fb.scrollDown(N)`, in pixels of the current grid. -/
def execScd (n : Nibble) (s : State) : Host.Outcome State Fault Refusal :=
  .next (s.setFb (Grid.scrollDown s.width s.height n.toNat s.fb))

/-- SCR, R157: `fb.scrollRight(4)`. -/
def execScr (s : State) : Host.Outcome State Fault Refusal :=
  .next (s.setFb (Grid.scrollRight s.width s.height 4 s.fb))

/-- SCL, R158: `fb.scrollLeft(4)`. -/
def execScl (s : State) : Host.Outcome State Fault Refusal :=
  .next (s.setFb (Grid.scrollLeft s.width s.height 4 s.fb))

/-- LOW, R159: `fb.setLowRes()`. -/
def execLow (s : State) : Host.Outcome State Fault Refusal := .next (s.setResolution .low)

/-- HIGH, R160: `fb.setHighRes()`. -/
def execHigh (s : State) : Host.Outcome State Fault Refusal := .next (s.setResolution .high)

/-- DRW Vx, Vy, N, R161: an N-row sprite from I; coordinates are read once, before any row, and VF is written after the last.
For N = 0 see log 24. -/
def execDrw (x y : Reg) (n : Nibble) (s : State) : Host.Outcome State Fault Refusal :=
  .next (drawParts (.drw x y n) (spriteParts8 (s.ea 0) (s.getV x).toNat (s.getV y).toNat n.toNat) false s)

/-- DRW Vx, Vy, 0, R162: a 16×16 sprite of 32 bytes from I, in both resolutions. -/
def execDrw16 (x y : Reg) (s : State) : Host.Outcome State Fault Refusal :=
  .next (drawParts (.drw16 x y) (spriteParts16 (s.ea 0) (s.getV x).toNat (s.getV y).toNat) false s)

end Sys2Proof.Machine
end

