-- ==== Sys2Proof/Machine/Flow.lean ====
section
/-!
DEFINITION. Step 3 of the control-flow instructions (42_flow.md R185 to R192), by the bias convention of 40_cycle.md R126.
Targets are not checked here; the next fetch checks pc (R180).
-/

namespace Sys2Proof.Machine

/-- RET, R185: jump to the popped address; StackUnderflow when the stack is empty. -/
def execRet (s : State) : Host.Outcome State Fault Refusal :=
  match s.pop with
  | .error e => .next (s.raiseIn e .ret)
  | .ok (target, popped) => .next (popped.jump target)

/-- JP NNN, R186. -/
def execJp (nnn : Addr) (s : State) : Host.Outcome State Fault Refusal := .next (s.jump (wordOfAddr nnn))

/-- CALL NNN, R187: push pc + 2 and jump; StackOverflow when STACK_DEPTH entries are there. -/
def execCall (nnn : Addr) (s : State) : Host.Outcome State Fault Refusal :=
  match s.push (s.pc + 2) with
  | .error e => .next (s.raiseIn e (.call nnn))
  | .ok pushed => .next (pushed.jump (wordOfAddr nnn))

/-- SE Vx, NN, R188. -/
def execSeImm (x : Reg) (nn : Byte) (s : State) : Host.Outcome State Fault Refusal :=
  .next (s.skipIf (s.getV x == nn))

/-- SNE Vx, NN, R189. -/
def execSneImm (x : Reg) (nn : Byte) (s : State) : Host.Outcome State Fault Refusal :=
  .next (s.skipIf (s.getV x != nn))

/-- SE Vx, Vy, R190. -/
def execSeReg (x y : Reg) (s : State) : Host.Outcome State Fault Refusal :=
  .next (s.skipIf (s.getV x == s.getV y))

/-- SNE Vx, Vy, R191. -/
def execSneReg (x y : Reg) (s : State) : Host.Outcome State Fault Refusal :=
  .next (s.skipIf (s.getV x != s.getV y))

/-- JP V0, NNN, R192: the target is NNN + V0, at most 0x10FE, not masked to 12 bits. -/
def execJpV0 (nnn : Addr) (s : State) : Host.Outcome State Fault Refusal :=
  .next (s.jump (wordOfAddr nnn + wordOfByte (s.getV 0)))

end Sys2Proof.Machine
end

