-- ==== Sys2Proof/Machine/IndexMemory.lean ====
section
/-!
DEFINITION. Step 3 of the address-register and memory-transfer instructions (44_index_memory.md R240, R245 to R251).
-/

namespace Sys2Proof.Machine

/-- LD I, NNN, R245: bits 15..12 of I become 0. -/
def execLdI (nnn : Addr) (s : State) : Host.Outcome State Fault Refusal := .next (s.setI (wordOfAddr nnn))

/-- ADD I, Vx, R246: modulo 2^16, no flag. -/
def execAddI (x : Reg) (s : State) : Host.Outcome State Fault Refusal :=
  .next (s.setI (s.i + wordOfByte (s.getV x)))

/-- LD F, Vx, R247. -/
def execLdF (x : Reg) (s : State) : Host.Outcome State Fault Refusal := .next (s.setI (smallGlyph (s.getV x)))

/-- LD HF, Vx, R248. -/
def execLdHf (x : Reg) (s : State) : Host.Outcome State Fault Refusal := .next (s.setI (largeGlyph (s.getV x)))

/-- LD B, Vx, R249: hundreds, tens and ones at I, I + 1, I + 2; I unchanged. -/
def execLdB (x : Reg) (s : State) : Host.Outcome State Fault Refusal :=
  .next (storeBytes (.ldB x) (s.ea 0) (bcdDigits (s.getV x)) s)

/-- LD [I], Vx, R250: V0..Vx at I, I + 1, ...; I unchanged. -/
def execLdMemVx (x : Reg) (s : State) : Host.Outcome State Fault Refusal :=
  .next (storeBytes (.ldMemVx x) (s.ea 0) ((blockRegs x).map s.getV) s)

/-- LD Vx, [I], R251: V0..Vx from I, I + 1, ...; I unchanged. -/
def execLdVxMem (x : Reg) (s : State) : Host.Outcome State Fault Refusal :=
  .next (loadRegs (.ldVxMem x) (s.ea 0) (blockRegs x) s)

end Sys2Proof.Machine
end

