-- ==== Sys2Proof/Machine/KeysTimers.lean ====
section
/-!
DEFINITION. Step 3 of the key and timer instructions (45_keys_timers.md R270, R275 to R278, R280, R281). The completion of
FX0A (R279) is a step of its own, in Machine/Cycle.lean.
-/

namespace Sys2Proof.Machine

/-- SKP Vx, R275: skip if the key is down; KeyIndexError as R270 says. -/
def execSkp (x : Reg) (s : State) : Host.Outcome State Fault Refusal :=
  match keyIndex s.params.keyIndex (s.getV x) with
  | .error e => .next (s.raiseIn e (.skp x))
  | .ok k => .next (s.skipIf (s.isDown k))

/-- SKNP Vx, R276: skip if the key is not down; KeyIndexError as R270 says. -/
def execSknp (x : Reg) (s : State) : Host.Outcome State Fault Refusal :=
  match keyIndex s.params.keyIndex (s.getV x) with
  | .error e => .next (s.raiseIn e (.sknp x))
  | .ok k => .next (s.skipIf (!s.isDown k))

/-- LD Vx, DT, R277: the value before this cycle's tick. -/
def execLdVxDt (x : Reg) (s : State) : Host.Outcome State Fault Refusal := .next (s.setV x s.dt)

/-- LD Vx, K, R278: clear `pressed` and suspend the cycle. -/
def execLdVxK (x : Reg) (s : State) : Host.Outcome State Fault Refusal :=
  .next { s with pressed := false, wait := some x }

/-- LD DT, Vx, R280: DT.last is not changed. -/
def execLdDtVx (x : Reg) (s : State) : Host.Outcome State Fault Refusal := .next (s.setDt (s.getV x))

/-- LD ST, Vx, R281. -/
def execLdStVx (x : Reg) (s : State) : Host.Outcome State Fault Refusal := .next (s.setSt (s.getV x))

end Sys2Proof.Machine
end

