-- ==== Sys2Proof/Machine/Cycle.lean ====
section
/-!
DEFINITION. The emulation cycle around step 3 (40_cycle.md R120 to R132) and the completion of a key wait (45_keys_timers.md
R279): fetch, decode, the unknown word, the timer tick and the advance.
-/

namespace Sys2Proof.Machine

/-- Step 1: the word at pc. Alignment is checked first, then the byte at pc is read, then the byte at pc + 1 (R121). -/
def fetch (s : State) : Except FatalError Word :=
  if s.params.oddPc == .fault && s.pc.getLsbD 0 then .error (.misalignedFetch s.pc)
  else match s.memRead .fetch s.pc.toNat with
    | .error e => .error e
    | .ok b0 =>
      match s.memRead .fetch (s.pc.toNat + 1) with
      | .error e => .error e
      | .ok b1 => .ok (wordOfBytes b0 b1)

/-- Steps 4 and 5 (R125, R127). -/
def State.endCycle (s : State) : State := s.tickTimers.advance

/-- What follows step 3: after a fatal error neither step 4 nor step 5 runs (R124); FX0A leaves both pending (R130); otherwise
both run. -/
def State.afterExecute (s : State) : State :=
  if s.run == .faulted || s.wait.isSome then s else s.endCycle

/-- Carry the outcome of step 3 through the rest of the cycle. -/
def finishCycle : Host.Outcome State Fault Refusal → Host.Outcome State Fault Refusal
  | .next s => .next s.afterExecute
  | .fault f => .fault f
  | .refused r => .refused r

/-- Step 3 of an unknown word: log it and change nothing else, or refuse it, by UNKNOWN_WORD_POLICY (R129, R310, R311). -/
def execUnknown (w : Word) (s : State) : Host.Outcome State Fault Refusal :=
  match s.params.unknownWord with
  | .nop => .next (s.logUnknown w)
  | .refuse => .refused (.unknownWord w)

/-- Steps 2 to 5 on a given word, with pc the address of the instruction (R120, R122, R325). -/
def runWord (w : Word) (s : State) : Host.Outcome State Fault Refusal :=
  match decodeWord w with
  | .ok ins => finishCycle (exec ins s)
  | .error _ => finishCycle (execUnknown w s)

/-- One emulation cycle (R120); a fetch error is recorded without a word (R301). -/
def cycle (s : State) : Host.Outcome State Fault Refusal :=
  match fetch s with
  | .error e => .next (s.raise e none)
  | .ok w => runWord w s

/-- The completion of LD Vx, K: Vx takes the key of the latest down edge and the suspended cycle ends (R279). -/
def State.completeWait (s : State) (x : Reg) : State :=
  { s.setV x (byteOfNibble s.lastKey) with wait := none }.endCycle

/-- The CORE's next step when the host does nothing: a cycle or the completion of a key wait, in Running only (R320). Where
neither is enabled there is no CORE step. -/
def coreStep (s : State) : Host.Outcome State Fault Refusal :=
  match s.run with
  | .running =>
    match s.wait with
    | none => cycle s
    | some x => if s.pressed then .next (s.completeWait x) else .fault (.keyWait x)
  | .faulted => .fault (.faulted s.fault)
  | .idle => .fault (.notRunning .idle)
  | .loaded => .fault (.notRunning .loaded)
  | .paused => .fault (.notRunning .paused)

end Sys2Proof.Machine
end

