-- ==== Sys2Proof/Machine/HostOps.lean ====
section
/-!
DEFINITION. The inputs from outside the CORE: the host's operations (60_exceptions.md R321 to R328; 70_reset_and_hazards.md R350
to R356), the keypad (60_exceptions.md R331) and the views (R327). Each is one atomic step (R320).
-/

namespace Sys2Proof.Machine

/-! ## The run-state machine -/

/-- play(): Loaded to Running (R321). -/
def State.play (s : State) : State := if s.run == .loaded then { s with run := .running } else s

/-- pause(): Running to Paused; a pending wait is kept (R322). -/
def State.pause (s : State) : State := if s.run == .running then { s with run := .paused } else s

/-- resume(): Paused to Running; a pending wait goes on (R323). -/
def State.resume (s : State) : State := if s.run == .paused then { s with run := .running } else s

/-- loadProgram(bytes): in Idle, and at most ROM_MAX bytes, copied to ORIGIN on (R354, R355, R356). -/
def State.loadProgram (s : State) (bytes : List Byte) : State :=
  if s.run == .idle && decide (bytes.length ≤ Config.romMax) then
    { s with mem := s.mem.writeList Config.origin bytes, pc := BitVec.ofNat 16 Config.origin, run := .loaded }
  else s

/-- Whether the host may single-step: Loaded or Paused (R324, R325). -/
def State.steppable (s : State) : Bool := s.run == .loaded || s.run == .paused

/-- After a host step the machine is Paused, or Faulted if the step raised a fatal error (R324, R325). -/
def State.pauseAfterStep (s : State) : State := if s.run == .faulted then s else { s with run := .paused }

/-- The outcome of a cycle that the host asked for. -/
def pauseOutcome : Host.Outcome State Fault Refusal → Host.Outcome State Fault Refusal
  | .next s => .next s.pauseAfterStep
  | .fault f => .fault f
  | .refused r => .refused r

/-- stepOneCycle(): one cycle, or the completion of a pending wait once a key edge has come; until then the caller is blocked and
there is no step (R324). -/
def hostStepOneCycle (s : State) : Host.Outcome State Fault Refusal :=
  if s.steppable then
    match s.wait with
    | none => pauseOutcome (cycle s)
    | some x => if s.pressed then .next (s.completeWait x).pauseAfterStep else .fault .stepBlocked
  else .next s

/-- executeRawInstruction(w): steps 2 to 5 on the word, with no fetch and so no fetch check; not during a wait (R325). -/
def hostExecuteRaw (w : Word) (s : State) : Host.Outcome State Fault Refusal :=
  if s.steppable && s.wait.isNone then pauseOutcome (runWord w s) else .next s

/-! ## All host operations -/

/-- Whether the machine's state admits an operation (R321 to R327, R354); stop and the views are admitted everywhere. -/
def State.admits (s : State) : HostOp → Bool
  | .loadProgram _ => s.run == .idle
  | .play => s.run == .loaded
  | .pause => s.run == .running
  | .resume => s.run == .paused
  | .stop => true
  | .stepOneCycle => s.steppable
  | .executeRaw _ => s.steppable && s.wait.isNone
  | .getFramebufferView => true
  | .getInputStateHandle => true

/-- The step a host operation takes (R320). One outside its admitted states changes nothing (R302, R328, D31); a view changes
nothing (R327); stop is a full reset (R326). -/
def hostStep (op : HostOp) (s : State) : Host.Outcome State Fault Refusal :=
  match op with
  | .loadProgram bytes => .next (s.loadProgram bytes)
  | .play => .next s.play
  | .pause => .next s.pause
  | .resume => .next s.resume
  | .stop => .next s.fullReset
  | .stepOneCycle => hostStepOneCycle s
  | .executeRaw w => hostExecuteRaw w s
  | .getFramebufferView => .next s
  | .getInputStateHandle => .next s

/-- What the operation reports to its caller, in the state it is called in (R312, R324, R327, R356, D31). -/
def hostReply (op : HostOp) (s : State) : Reply :=
  if s.admits op then
    match op with
    | .loadProgram bytes => if bytes.length ≤ Config.romMax then .accepted else .loadOversize
    | .stepOneCycle => if s.wait.isSome && !s.pressed then .blocked else .accepted
    | .getFramebufferView => .view s.res s.width s.height s.fb
    | .getInputStateHandle => .inputHandle
    | .play | .pause | .resume | .stop | .executeRaw _ => .accepted
  else .rejected

/-! ## The keypad -/

/-- setDown(k, b), in every run state: an up-to-down transition sets the latch and `pressed` (R331). -/
def State.setDown (s : State) (k : Nibble) (b : Bool) : State :=
  let edge := b && !s.isDown k
  { s with
    keys := s.keys.set k.toNat b k.isLt
    lastKey := if edge then k else s.lastKey
    pressed := s.pressed || edge }

/-! ## One input of the schedule, and the bytes of a program placed for the next fetch -/

/-- The step an input of the schedule stands for (R320). -/
def eventStep (e : Event) (s : State) : Host.Outcome State Fault Refusal :=
  match e with
  | .core => coreStep s
  | .host op => hostStep op s
  | .setDown k b => .next (s.setDown k b)

/-- One step: the next input of the schedule, or the CORE's own step when none is left (R320; log 10). -/
def nextStep (s : State) : Host.Outcome State Fault Refusal :=
  match s.schedule with
  | [] => coreStep s
  | e :: _ => eventStep e s.dequeue

/-- Store a byte where memory has one. -/
def Memory.place (m : Memory) (a : Nat) (b : Byte) : Memory := if a < Config.memSize then m.write a b else m

/-- The state in which a program whose instruction at pc has these bytes is loaded and playing (log 11). -/
def State.withBytesAtPc (s : State) (bytes : List Byte) : State :=
  { s with
    mem := (s.mem.place s.pc.toNat (bytes.getD 0 0)).place (s.pc.toNat + 1) (bytes.getD 1 0)
    run := .running
    wait := none
    schedule := [] }

end Sys2Proof.Machine
end

