-- ==== Sys2Proof/Machine/Step.lean ====
section
/-!
DEFINITION. One step of the machine (60_exceptions.md R320), and the state whose next step runs a given instruction.
-/

namespace Sys2Proof.Machine

/-- One step: an input from the schedule, or else a cycle or the completion of a key wait (R320). -/
def step (s : State) : Host.Outcome State Fault Refusal := nextStep s

/-- `s` with the instruction whose bits are `w`, as spec/opcode_table.json numbers them, stored where the next step fetches, and
the machine playing, as after loadProgram and play (R321, R354; log 11). -/
def State.withFetchWord (s : State) (nbits w : Nat) : State := s.withBytesAtPc (tableBytes nbits w)

end Sys2Proof.Machine
end

