-- ==== Sys2Proof/Safety.lean ====
section
/-!
DEFINITION. The terms claims are made in: the parts of the state and which of them an instruction may change (10_state.md R20 to
R35), the reset table (10_state.md R37), the run-state table (60_exceptions.md R328), and what holds in every state the machine
can be in.
-/

namespace Sys2Proof.Machine

/-! ## Parts of the state -/

/-- One part of the state: a register, one byte of memory, or a field. -/
inductive Part where
  /-- V[r]. -/
  | v (r : Reg)
  /-- I. -/
  | i
  /-- pc. -/
  | pc
  /-- The call stack. -/
  | stack
  /-- DT. -/
  | dt
  /-- ST. -/
  | st
  /-- DT.last. -/
  | dtLast
  /-- ST.last. -/
  | stLast
  /-- The byte at an address. -/
  | byteAt (a : Nat)
  /-- The resolution. -/
  | res
  /-- The pixels. -/
  | fb
  /-- The key-down flags. -/
  | keys
  /-- The last-key latch. -/
  | lastKey
  /-- The pressed flag. -/
  | pressed
  /-- The lifecycle state. -/
  | run
  /-- The key-wait substate. -/
  | wait
  /-- The fault record. -/
  | fault
  /-- The parameters. -/
  | params
  /-- The count of timer draws. -/
  | tickCount
  /-- The count of random bytes. -/
  | rngCount
  /-- The diagnostic sink. -/
  | diag
  /-- The inputs to come. -/
  | schedule
  deriving DecidableEq, Repr

/-- A part is the same in two states. A byte of memory is compared as the model reads it. -/
def Part.same (p : Part) (s t : State) : Prop :=
  match p with
  | .v r => t.getV r = s.getV r
  | .i => t.i = s.i
  | .pc => t.pc = s.pc
  | .stack => t.stack = s.stack
  | .dt => t.dt = s.dt
  | .st => t.st = s.st
  | .dtLast => t.dtLast = s.dtLast
  | .stLast => t.stLast = s.stLast
  | .byteAt a => t.mem.read a = s.mem.read a
  | .res => t.res = s.res
  | .fb => t.fb = s.fb
  | .keys => t.keys = s.keys
  | .lastKey => t.lastKey = s.lastKey
  | .pressed => t.pressed = s.pressed
  | .run => t.run = s.run
  | .wait => t.wait = s.wait
  | .fault => t.fault = s.fault
  | .params => t.params = s.params
  | .tickCount => t.tickCount = s.tickCount
  | .rngCount => t.rngCount = s.rngCount
  | .diag => t.diag = s.diag
  | .schedule => t.schedule = s.schedule

/-- Every part outside the list is the same in both states: every register, every byte of memory, every field. -/
def OnlyChanges (parts : List Part) (s t : State) : Prop := ∀ p, p ∉ parts → p.same s t

/-- The parts of the bytes at `a`, `a + 1`, ..., `a + n − 1`. -/
def bytesFrom (a n : Nat) : List Part := (List.range n).map fun k => .byteAt (a + k)

/-- The parts V0..Vx. -/
def regsTo (x : Reg) : List Part := (blockRegs x).map .v

/-- The registers of a fault entry (60_exceptions.md R301). -/
def faultParts : List Part := [.run, .fault]

/-- The parts an instruction may change in step 3, as the spec names them: destination registers and VF (10_state.md R22, R23), I
(R26), pc (40_cycle.md R126), the stack (R28), the timers (R29), the bytes stored (20_memory.md R67), the screen, the key wait,
and, where the instruction can raise a fatal error, the fault entry (60_exceptions.md R300). -/
def mayChange (s : State) : Instr → List Part
  | .cls => [.fb]
  | .ret => [.pc, .stack] ++ faultParts
  | .scd _ => [.fb]
  | .scr => [.fb]
  | .scl => [.fb]
  | .low => [.res, .fb]
  | .high => [.res, .fb]
  | .jp _ => [.pc]
  | .call _ => [.pc, .stack] ++ faultParts
  | .seImm _ _ => [.pc]
  | .sneImm _ _ => [.pc]
  | .seReg _ _ => [.pc]
  | .ldImm x _ => [.v x]
  | .addImm x _ => [.v x]
  | .ldReg x _ => [.v x]
  | .orReg x _ => [.v x]
  | .andReg x _ => [.v x]
  | .xorReg x _ => [.v x]
  | .addReg x _ => [.v x, .v Reg.flag]
  | .sub x _ => [.v x, .v Reg.flag]
  | .shr x _ => [.v x, .v Reg.flag]
  | .subn x _ => [.v x, .v Reg.flag]
  | .shl x _ => [.v x, .v Reg.flag]
  | .sneReg _ _ => [.pc]
  | .ldI _ => [.i]
  | .jpV0 _ => [.pc]
  | .rnd x _ => [.v x, .rngCount]
  | .drw _ _ _ => [.fb, .v Reg.flag] ++ faultParts
  | .drw16 _ _ => [.fb, .v Reg.flag] ++ faultParts
  | .skp _ => [.pc] ++ faultParts
  | .sknp _ => [.pc] ++ faultParts
  | .ldVxDt x => [.v x]
  | .ldVxK _ => [.pressed, .wait]
  | .ldDtVx _ => [.dt]
  | .ldStVx _ => [.st]
  | .addI _ => [.i]
  | .ldF _ => [.i]
  | .ldHf _ => [.i]
  | .ldB _ => bytesFrom (s.ea 0) 3 ++ faultParts
  | .ldMemVx x => bytesFrom (s.ea 0) (x.toNat + 1) ++ faultParts
  | .ldVxMem x => regsTo x ++ faultParts

/-- Whether an error is one the instruction can raise in step 3 (60_exceptions.md R300). -/
def mayRaise : Instr → FatalError → Prop
  | .ret, e => e = .stackUnderflow
  | .call _, e => ∃ depth, e = .stackOverflow depth
  | .drw _ _ _, e => ∃ a, Config.memSize ≤ a ∧ e = .bounds a .read
  | .drw16 _ _, e => ∃ a, Config.memSize ≤ a ∧ e = .bounds a .read
  | .ldVxMem _, e => ∃ a, Config.memSize ≤ a ∧ e = .bounds a .read
  | .ldB _, e => ∃ a, Config.memSize ≤ a ∧ e = .bounds a .write
  | .ldMemVx _, e => ∃ a, Config.memSize ≤ a ∧ e = .bounds a .write
  | .skp _, e => ∃ v : Byte, 16 ≤ v.toNat ∧ e = .keyIndex v
  | .sknp _, e => ∃ v : Byte, 16 ≤ v.toNat ∧ e = .keyIndex v
  | .cls, _ | .scd _, _ | .scr, _ | .scl, _ | .low, _ | .high, _ | .jp _, _ | .seImm _ _, _ | .sneImm _ _, _
  | .seReg _ _, _ | .ldImm _ _, _ | .addImm _ _, _ | .ldReg _ _, _ | .orReg _ _, _ | .andReg _ _, _ | .xorReg _ _, _
  | .addReg _ _, _ | .sub _ _, _ | .shr _ _, _ | .subn _ _, _ | .shl _ _, _ | .sneReg _ _, _ | .ldI _, _ | .jpV0 _, _
  | .rnd _ _, _ | .ldVxDt _, _ | .ldVxK _, _ | .ldDtVx _, _ | .ldStVx _, _ | .addI _, _ | .ldF _, _
  | .ldHf _, _ => False

/-! ## The reset table -/

/-- The spec's state has the values of R37, with `time` the time of the reset. -/
def ResetTable (time : Nat) (t : State) : Prop :=
  (∀ r, t.getV r = 0) ∧ t.i = 0 ∧ t.pc = 0x200 ∧ t.stack = [] ∧ t.dt = 0 ∧ t.st = 0 ∧
  t.dtLast = time ∧ t.stLast = time ∧
  (∀ (a : Nat) (h : a < 80), t.mem.read a = t.params.fontSmall[a]) ∧
  (∀ a, 0x50 ≤ a → a < 0xF0 → t.mem.read a = Config.fontLarge (a - 0x50)) ∧
  (∀ a, 0xF0 ≤ a → a < 4096 → t.mem.read a = 0) ∧
  t.res = .low ∧ t.fb.sized 64 32 ∧ (∀ x y, t.fb.pixel x y = false) ∧
  (∀ k, t.isDown k = false) ∧ t.pressed = false ∧ t.lastKey = 0 ∧
  t.run = .idle ∧ t.wait = none ∧ t.fault = none ∧ t.tone = false

/-! ## Conditions on a state -/

/-- A CORE step is what `step` takes next: the schedule asks for one, whatever inputs come after it, or asks for nothing
(60_exceptions.md R320; log 10). -/
abbrev CoreNext (s : State) : Prop := s.schedule = [] ∨ s.schedule.head? = some .core

/-- A cycle is what `step` takes next: a CORE step, Running, with no wait (40_cycle.md R120; 60_exceptions.md R320). -/
def CycleNext (s : State) : Prop := CoreNext s ∧ s.run = .running ∧ s.wait = none

/-- pc may be fetched from: no alignment fault, and both bytes in memory (40_cycle.md R121). -/
def Fetchable (s : State) : Prop :=
  (s.params.oddPc = .fault → s.pc.toNat % 2 = 0) ∧ s.pc.toNat + 1 < Config.memSize

/-- The word at pc: the byte at pc is the high one (20_memory.md R63). -/
def wordAtPc (s : State) : Word :=
  BitVec.ofNat 16 ((s.mem.read s.pc.toNat).toNat * 256 + (s.mem.read (s.pc.toNat + 1)).toNat)

/-- The pixels' size is that of the resolution (10_state.md R32). -/
def ScreenSized (s : State) : Prop := s.fb.sized s.width s.height

/-- In Idle the spec's state, but for the input state and the timestamps, is the reset state (70_reset_and_hazards.md R350, R355). -/
def IdleIsReset (s : State) : Prop :=
  s.run = .idle →
    s.v = State.reset.v ∧ s.i = 0 ∧ s.pc = 0x200 ∧ s.stack = [] ∧ s.dt = 0 ∧ s.st = 0 ∧
    s.mem = Memory.reset s.params.fontSmall ∧ s.res = .low ∧ s.fb = State.reset.fb

/-- What holds of every state the machine can be in: memory in canonical form (20_memory.md R60), the grid the size of the
resolution (R32), the stack within STACK_DEPTH (R28), a fault record exactly in Faulted (R35, R301), a key wait only in Running or
Paused (R322, R324), and Idle the reset state (R355). -/
def State.Inv (s : State) : Prop :=
  s.mem.wf ∧ ScreenSized s ∧ s.stack.length ≤ s.params.stackDepth ∧ (s.fault.isSome ↔ s.run = .faulted) ∧
  (s.wait.isSome → s.run = .running ∨ s.run = .paused) ∧ IdleIsReset s

/-- Whether the host may single-step: Loaded or Paused (60_exceptions.md R324, R325). -/
def MayStep (s : State) : Prop := s.run = .loaded ∨ s.run = .paused

/-- The run states the transitions of R328 allow after a step from `s`, by the input that causes it: where the input's own
transition is not admitted, the run state stays. -/
def RunEdge (s : State) (b : RunState) : Event → Prop
  | .core => s.run = .running ∧ (b = .running ∨ b = .faulted)
  | .setDown _ _ => b = s.run
  | .host (.loadProgram bytes) => b = if s.run = .idle ∧ bytes.length ≤ 3584 then .loaded else s.run
  | .host .play => b = if s.run = .loaded then .running else s.run
  | .host .pause => b = if s.run = .running then .paused else s.run
  | .host .resume => b = if s.run = .paused then .running else s.run
  | .host .stop => b = .idle
  | .host .stepOneCycle => (MayStep s → b = .paused ∨ b = .faulted) ∧ (¬MayStep s → b = s.run)
  | .host (.executeRaw _) =>
    (MayStep s ∧ s.wait = none → b = .paused ∨ b = .faulted) ∧ (¬(MayStep s ∧ s.wait = none) → b = s.run)
  | .host .getFramebufferView => b = s.run
  | .host .getInputStateHandle => b = s.run

/-! ## Ticks and sprites, as the spec's rules put them -/

/-- `due` of a timer (40_cycle.md R127): the draw, or in the clocked refinement at least 1/60 s since `last`. -/
def Due (t : State) (draw : Bool) (last : Nat) : Prop :=
  match t.params.timerSource with
  | .drawn => draw = true
  | .clocked => 60 * last + Config.clockHz ≤ 60 * Config.clock t.tickCount

/-- What one tick makes of a timer's value and timestamp (R127): `due` says whether it decrements. -/
def TickedValue (t : State) (due : Prop) (value value' : Byte) (last last' : Nat) : Prop :=
  (value.toNat > 0 ∧ due →
    value'.toNat + 1 = value.toNat ∧
      last' = match t.params.timerSource with | .drawn => last | .clocked => Config.clock t.tickCount) ∧
  (¬(value.toNat > 0 ∧ due) → value' = value ∧ last' = last)

/-- `u` is `t` after step 4 ticked both timers and step 5 added 2 to pc (R120, R125, R127). The tick has used up its draws or its
clock reading: the next tick takes fresh ones (log 3, log 4). -/
def EndedCycle (t u : State) : Prop :=
  u.pc = t.pc + 2 ∧ u.tickCount = t.tickCount + 1 ∧
  TickedValue t (Due t (Config.delayDue t.tickCount) t.dtLast) t.dt u.dt t.dtLast u.dtLast ∧
  TickedValue t (Due t (Config.soundDue t.tickCount) t.stLast) t.st u.st t.stLast u.stLast ∧
  OnlyChanges [.pc, .dt, .st, .dtLast, .stLast, .tickCount] t u

/-- Bit k of a row that starts at column x lands on column p: past the right edge it is dropped or wraps (41_display.md R151). -/
def BitLands (s : State) (x k p : Nat) : Prop :=
  match s.params.spriteEdge with
  | .clip => x % s.width + k = p
  | .wrap => (x % s.width + k) % s.width = p

/-- The sprite row read from address `a` and drawn at (x, y) flips the pixel (p, q) (R151, R152). -/
def RowFlips (s : State) (a x y p q : Nat) : Prop :=
  q = y % s.height ∧ ∃ k < 8, (s.mem.read a).getLsbD (7 - k) = true ∧ BitLands s x k p

/-- A DXYN sprite flips the pixel (p, q), counting only the rows whose byte is in memory (R161). -/
def Sprite8Flips (s : State) (x y n p q : Nat) : Prop :=
  ∃ r < n, s.i.toNat + r < Config.memSize ∧ RowFlips s (s.i.toNat + r) x (y + r) p q

/-- A DXY0 sprite flips the pixel (p, q), counting only the halves whose byte is in memory (R162). -/
def Sprite16Flips (s : State) (x y p q : Nat) : Prop :=
  ∃ r < 16,
    (s.i.toNat + 2 * r < Config.memSize ∧ RowFlips s (s.i.toNat + 2 * r) x (y + r) p q) ∨
    (s.i.toNat + 2 * r + 1 < Config.memSize ∧ RowFlips s (s.i.toNat + 2 * r + 1) (x + 8) (y + r) p q)

/-- In the grid of `s`, `t` has exactly the pixels of `s` with those of `flips` inverted. -/
def FlipsExactly (s t : State) (flips : Nat → Nat → Prop) : Prop :=
  ∀ p q, p < s.width → q < s.height →
    (t.fb.pixel p q = true ↔ (s.fb.pixel p q = true ∧ ¬flips p q) ∨ (s.fb.pixel p q = false ∧ flips p q))

/-- Some pixel of the grid is lit in `s` and unlit in `t`: a collision (00_scope.md, glossary). -/
def TurnsOff (s t : State) : Prop :=
  ∃ p q, p < s.width ∧ q < s.height ∧ s.fb.pixel p q = true ∧ t.fb.pixel p q = false

/-- The fault entry of R301: Faulted, the record, and of every other part only those listed. -/
def FaultEntry (s t : State) (e : FatalError) (word : Option Word) (parts : List Part) : Prop :=
  t.run = .faulted ∧ t.fault = some ⟨e, s.pc, word⟩ ∧ OnlyChanges (parts ++ faultParts) s t

/-- A fetch at an odd pc under ODD_PC_POLICY = fault (40_cycle.md R121). -/
def MisalignedPc (s : State) : Prop := s.params.oddPc = .fault ∧ s.pc.toNat % 2 = 1

/-- `o` is the fault entry of the first check a fetch at pc fails: alignment, then the byte at pc, then the byte at pc + 1. The
record has no word (40_cycle.md R121; 60_exceptions.md R301). -/
def FetchErrorEntered (s : State) (o : Host.Outcome State Fault Refusal) : Prop :=
  (MisalignedPc s → ∃ t, o = .next t ∧ FaultEntry s t (.misalignedFetch s.pc) none []) ∧
  (¬MisalignedPc s → Config.memSize ≤ s.pc.toNat →
    ∃ t, o = .next t ∧ FaultEntry s t (.bounds s.pc.toNat .fetch) none []) ∧
  (¬MisalignedPc s → s.pc.toNat + 1 = Config.memSize →
    ∃ t, o = .next t ∧ FaultEntry s t (.bounds (s.pc.toNat + 1) .fetch) none [])

/-- `t` is `s` after step 3 of an unknown word under UNKNOWN_WORD_POLICY = nop: the sink has received the word and its signed
offset from ORIGIN (40_cycle.md R129; 60_exceptions.md R310). -/
def LoggedUnknown (s t : State) (w : Word) : Prop :=
  t.diag = s.diag ++ [.unknown w ((s.pc.toNat : Int) - 0x200)] ∧ OnlyChanges [.diag] s t

/-- `v` is `u`, Paused. -/
def PausedFrom (u v : State) : Prop := v.run = .paused ∧ OnlyChanges [.run] u v

/-- `o` is what steps 2 to 5 on the word `w`, asked for by the host, make of `s` (60_exceptions.md R324, R325): a fatal error ends
the step where step 3 left it; otherwise the machine is Paused, after steps 4 and 5 unless FX0A has begun a wait (40_cycle.md
R124, R130); an unknown word is logged or refused (R129, R311). -/
def HostRan (s : State) (w : Word) (o : Host.Outcome State Fault Refusal) : Prop :=
  (∀ (i : Instr) (t : State), decodeWord w = .ok i → exec i s = .next t →
    (t.run = .faulted → o = .next t) ∧
    (t.run ≠ .faulted → t.wait ≠ none → ∃ u, o = .next u ∧ PausedFrom t u) ∧
    (t.run ≠ .faulted → t.wait = none → ∃ u v, o = .next v ∧ EndedCycle t u ∧ PausedFrom u v)) ∧
  (∀ e : DecodeError, decodeWord w = .error e →
    (s.params.unknownWord = .nop →
      ∃ t u v, o = .next v ∧ LoggedUnknown s t w ∧ EndedCycle t u ∧ PausedFrom u v) ∧
    (s.params.unknownWord = .refuse → o = .refused (.unknownWord w)))

/-- A host operation changes nothing and is reported as rejected (92_eei_decisions.md D31). -/
def Rejected (op : HostOp) (s : State) : Prop := hostStep op s = .next s ∧ hostReply op s = .rejected

/-- The machine has met no fatal error. -/
def State.Healthy (s : State) : Prop := s.run ≠ .faulted

end Sys2Proof.Machine
end

