-- ==== Sys2Proof/Certificates/Slice0/Obligations.lean ====
section
/-!
DEFINITION. The statements for the provers, from the numbered rules of spec/. Each docstring names the rule it formalises.
-/

open Sys2Proof Sys2Proof.Machine

/-! ## Encoding (30_encoding.md) -/

/-- R93, R99: words written out from the opcode map, and words of no row. Most of the map's bit patterns are the spec's decision D1,
from general knowledge (PRESUMED, unsafe: log 7). -/
def Obligations.SampleWordsDecode : Prop :=
  decodeWord 0x00E0 = .ok .cls ∧ decodeWord 0x00EE = .ok .ret ∧ decodeWord 0x00C3 = .ok (.scd 3) ∧
  decodeWord 0x1300 = .ok (.jp 0x300) ∧ decodeWord 0x3005 = .ok (.seImm 0 5) ∧ decodeWord 0x6005 = .ok (.ldImm 0 5) ∧
  decodeWord 0x7003 = .ok (.addImm 0 3) ∧ decodeWord 0x8014 = .ok (.addReg 0 1) ∧ decodeWord 0xA22A = .ok (.ldI 0x22A) ∧
  decodeWord 0xD230 = .ok (.drw16 2 3) ∧ decodeWord 0xD011 = .ok (.drw 0 1 1) ∧ decodeWord 0xE49E = .ok (.skp 4) ∧
  decodeWord 0xF30A = .ok (.ldVxK 3) ∧ decodeWord 0xF533 = .ok (.ldB 5) ∧
  decodeWord 0x0000 = .error (.unknownWord 0x0000) ∧ decodeWord 0x00FD = .error (.unknownWord 0x00FD) ∧
  decodeWord 0x5121 = .error (.unknownWord 0x5121) ∧ decodeWord 0x8008 = .error (.unknownWord 0x8008)

/-- R90, R93, R102: every well-formed instruction is what its own two bytes decode to, whatever bytes follow. -/
def Obligations.DecodeOfEncode : Prop :=
  ∀ (i : Instr) (rest : List Byte), i.wellFormed = true →
    decodeWord (encode i) = .ok i ∧ decodeBytes (encodeBytes i ++ rest) = .ok (i, rest)

/-- R93, R122: a word decodes to one well-formed instruction at most, and that instruction encodes to the word. -/
def Obligations.EncodeOfDecode : Prop :=
  ∀ (w : Word) (i : Instr), decodeWord w = .ok i → i.wellFormed = true ∧ encode i = w

/-- R93, R122: a word is an instruction exactly when `(w & mask) == match` and the constraint of that instruction's row hold, and no
word matches two rows. The bit patterns are the spec's decision D1 (log 7), and "No word matches two rows" is its own inference. -/
def Obligations.DecodeFollowsOpcodeMap : Prop :=
  (∀ (w : Word) (row : OpcodeRow), row ∈ opcodeMap →
    (row.admits w = true ↔ ∃ i, decodeWord w = .ok i ∧ i.rowMnemonic = row.mnemonic)) ∧
  (∀ (w : Word) (i : Instr), decodeWord w = .ok i → ∃ row ∈ opcodeMap, row.mnemonic = i.rowMnemonic) ∧
  (∀ (w : Word) (row row' : OpcodeRow), row ∈ opcodeMap → row' ∈ opcodeMap → row.admits w = true → row'.admits w = true →
    row = row')

/-! ## The cycle (40_cycle.md) -/

/-- R63: the byte at pc is the high byte of the word fetched. -/
def Obligations.FetchIsBigEndian : Prop :=
  ∀ s : State, Fetchable s →
    fetch s = .ok (wordAtPc s) ∧
    (wordAtPc s).toNat = (s.mem.read s.pc.toNat).toNat * 256 + (s.mem.read (s.pc.toNat + 1)).toNat

/-- R120, R123, R320: when the bytes at pc decode to an instruction, the step is that instruction's `exec`, followed by what
`finishCycle` adds (CompletedCycleTicksAndAdvances, CycleStopsAfterErrorOrWait). Here and in the statements below the cycle may be
the head of the schedule, whatever inputs come after it, or the schedule may be empty; `dequeue` takes it from there (log 10). -/
def Obligations.StepRunsDecodedInstruction : Prop :=
  ∀ (s : State) (i : Instr), CycleNext s → Fetchable s → decodeWord (wordAtPc s) = .ok i →
    step s = finishCycle (exec i s.dequeue)

/-- R125, R127: a cycle whose step 3 neither failed nor suspended adds 2 to pc, having ticked DT and ST, and does nothing else. When
a timer is due is the spec's decision D13, a free value of the model's, drawn afresh at each tick (log 3, log 4). -/
def Obligations.CompletedCycleTicksAndAdvances : Prop :=
  ∀ (s t : State) (i : Instr), CycleNext s → Fetchable s → decodeWord (wordAtPc s) = .ok i → exec i s.dequeue = .next t →
    t.run ≠ .faulted → t.wait = none →
    ∃ u, step s = .next u ∧ EndedCycle t u

/-- R124, R130: after a fatal error, or when FX0A has suspended the cycle, step 3 ends the step: no tick and no advance. That neither
follows a fatal error is the spec's decision D12, and that the error is a next state is the model's (log 9). -/
def Obligations.CycleStopsAfterErrorOrWait : Prop :=
  ∀ (s t : State) (i : Instr), CycleNext s → Fetchable s → decodeWord (wordAtPc s) = .ok i → exec i s.dequeue = .next t →
    t.run = .faulted ∨ t.wait ≠ none → step s = .next t

/-- R121, R65, R301: a fetch that may not be made enters Faulted with no word: alignment is checked first, then the byte at pc, then
the byte at pc + 1; a fetch that passes the three checks reads the word. The policy and the order are the spec's decisions D7, D12
and D27, and that the entry is a next state is the model's (log 9). -/
def Obligations.FetchErrorsEnterFaulted : Prop :=
  ∀ s : State, CycleNext s →
    FetchErrorEntered s.dequeue (step s) ∧
    (¬MisalignedPc s → s.pc.toNat + 1 < Config.memSize → fetch s.dequeue = .ok (wordAtPc s))

/-- R129, R310, R311: an unknown word is logged with its signed offset from ORIGIN and otherwise ends the cycle with no other
change; under UNKNOWN_WORD_POLICY = refuse the step is a refusal. The policy and the record are the spec's decisions D2 and D28;
the refused outcome is the model's form of the mark (log 13), `diag` of the sink (log 12); the tick is D13's (log 3, log 4). -/
def Obligations.UnknownWordIsLoggedNop : Prop :=
  ∀ (s : State) (e : DecodeError), CycleNext s → Fetchable s → decodeWord (wordAtPc s) = .error e →
    (s.params.unknownWord = .nop →
      ∃ t u, step s = .next u ∧ LoggedUnknown s.dequeue t (wordAtPc s) ∧ EndedCycle t u) ∧
    (s.params.unknownWord = .refuse → step s = .refused (.unknownWord (wordAtPc s)))

/-- R27: a cycle that runs any instruction but RET leaves pc at 0x10FE at most, "The largest value an instruction can leave", the
spec's own inference. -/
def Obligations.CycleKeepsPcInReach : Prop :=
  ∀ (s u : State) (i : Instr), CycleNext s → Fetchable s → decodeWord (wordAtPc s) = .ok i → i ≠ .ret → step s = .next u →
    u.pc.toNat ≤ 0x10FE

/-- R302, R320, R338: in Faulted, Idle, Loaded and Paused the CORE takes no step, asked for by the schedule or not. The names a step answers with there are
the model's choice (log 9, log 10). -/
def Obligations.NoCoreStepOutsideRunning : Prop :=
  ∀ s : State, CoreNext s →
    (s.run = .faulted → step s = .fault (.faulted s.fault)) ∧
    (s.run = .idle ∨ s.run = .loaded ∨ s.run = .paused → step s = .fault (.notRunning s.run))

/-! ## Display (41_display.md) -/

/-- R155, R150: CLS unlights every pixel and keeps the resolution. -/
def Obligations.ClsUnlightsEveryPixel : Prop :=
  ∀ s : State, ∃ t, exec .cls s = .next t ∧ (∀ p q, t.fb.pixel p q = false) ∧ ScreenSized t ∧ OnlyChanges [.fb] s t

/-- R153, R156, R157, R158: the scrolls rotate the grid: a pixel shifted off one edge re-enters at the opposite edge. The unit of the
amounts is the spec's decision D33, and SCD 0 is D26. -/
def Obligations.ScrollsRotateTheGrid : Prop :=
  ∀ s : State,
    (∀ n : Nibble, ∃ t, exec (.scd n) s = .next t ∧ ScreenSized t ∧ OnlyChanges [.fb] s t ∧
      ∀ p q, p < s.width → q < s.height → t.fb.pixel p ((q + n.toNat) % s.height) = s.fb.pixel p q) ∧
    (∃ t, exec .scr s = .next t ∧ ScreenSized t ∧ OnlyChanges [.fb] s t ∧
      ∀ p q, p < s.width → q < s.height → t.fb.pixel ((p + 4) % s.width) q = s.fb.pixel p q) ∧
    (∃ t, exec .scl s = .next t ∧ ScreenSized t ∧ OnlyChanges [.fb] s t ∧
      ∀ p q, p < s.width → q < s.height → t.fb.pixel ((p + (s.width - 4)) % s.width) q = s.fb.pixel p q)

/-- R154, R159, R160: LOW and HIGH select the resolution and clear the whole new grid, even when `res` had that value. -/
def Obligations.ResolutionSwitchClears : Prop :=
  ∀ s : State,
    (∃ t, exec .low s = .next t ∧ t.width = 64 ∧ t.height = 32 ∧ t.fb.sized 64 32 ∧ (∀ p q, t.fb.pixel p q = false) ∧
      OnlyChanges [.res, .fb] s t) ∧
    (∃ t, exec .high s = .next t ∧ t.width = 128 ∧ t.height = 64 ∧ t.fb.sized 128 64 ∧ (∀ p q, t.fb.pixel p q = false) ∧
      OnlyChanges [.res, .fb] s t)

/-- R161, R151, R152: a DXYN sprite inside memory inverts exactly the pixels its 1 bits land on, at coordinates read before VF is
written, and VF is 1 when a lit pixel went out and 0 otherwise. The 0 is the spec's decision D4, the right edge D5. -/
def Obligations.DrawInvertsSpritePixels : Prop :=
  ∀ (x y : Reg) (n : Nibble) (s : State), ScreenSized s → s.i.toNat + n.toNat ≤ Config.memSize →
    ∃ t, exec (.drw x y n) s = .next t ∧ ScreenSized t ∧
      FlipsExactly s t (Sprite8Flips s (s.getV x).toNat (s.getV y).toNat n.toNat) ∧
      (TurnsOff s t → t.getV Reg.flag = 1) ∧ (¬TurnsOff s t → t.getV Reg.flag = 0) ∧
      OnlyChanges [.fb, .v Reg.flag] s t

/-- R162, R151, R152: the same of the 16×16 sprite of DXY0, in both resolutions (the spec's decision D6). -/
def Obligations.Draw16InvertsSpritePixels : Prop :=
  ∀ (x y : Reg) (s : State), ScreenSized s → s.i.toNat + 32 ≤ Config.memSize →
    ∃ t, exec (.drw16 x y) s = .next t ∧ ScreenSized t ∧
      FlipsExactly s t (Sprite16Flips s (s.getV x).toNat (s.getV y).toNat) ∧
      (TurnsOff s t → t.getV Reg.flag = 1) ∧ (¬TurnsOff s t → t.getV Reg.flag = 0) ∧
      OnlyChanges [.fb, .v Reg.flag] s t

/-- R161, R162, R301: a sprite byte outside memory raises BoundsError at the first such address; what was drawn before it stays
drawn, and VF is not written. The entry is the spec's decision D12 (log 9); its word is the encoding (log 21). -/
def Obligations.DrawPastMemoryFaults : Prop :=
  ∀ (x y : Reg) (s : State), ScreenSized s →
    (∀ n : Nibble, Config.memSize < s.i.toNat + n.toNat → n ≠ 0 →
      ∃ t, exec (.drw x y n) s = .next t ∧ ScreenSized t ∧
        FaultEntry s t (.bounds (max s.i.toNat Config.memSize) .read) (some (encode (.drw x y n))) [.fb] ∧
        FlipsExactly s t (Sprite8Flips s (s.getV x).toNat (s.getV y).toNat n.toNat)) ∧
    (Config.memSize < s.i.toNat + 32 →
      ∃ t, exec (.drw16 x y) s = .next t ∧ ScreenSized t ∧
        FaultEntry s t (.bounds (max s.i.toNat Config.memSize) .read) (some (encode (.drw16 x y))) [.fb] ∧
        FlipsExactly s t (Sprite16Flips s (s.getV x).toNat (s.getV y).toNat))

/-! ## Control flow (42_flow.md) -/

/-- R185, R28: RET goes to the most recently pushed address and removes it; on an empty stack it raises
StackUnderflow (R301). That nothing else happens then is the spec's decision D12; that the entry is a next state is the model's
(log 9), and its word is the encoding (log 21). -/
def Obligations.RetPopsOrUnderflows : Prop :=
  ∀ s : State,
    (∀ (a : Word) (l : List Word), s.stack = a :: l →
      ∃ t, exec .ret s = .next t ∧ t.pc + 2 = a ∧ t.stack = l ∧ OnlyChanges [.pc, .stack] s t) ∧
    (s.stack = [] → ∃ t, exec .ret s = .next t ∧ FaultEntry s t .stackUnderflow (some 0x00EE) [])

/-- R187, R28, R301: CALL pushes pc + 2 and goes to NNN; with STACK_DEPTH entries on the stack it raises StackOverflow, the spec's
decision D8. The entry is the spec's decision D12; that it is a next state is the model's (log 9), and its word is the encoding
(log 21). -/
def Obligations.CallPushesOrOverflows : Prop :=
  ∀ (nnn : Addr) (s : State),
    (s.stack.length < s.params.stackDepth →
      ∃ t, exec (.call nnn) s = .next t ∧ (t.pc + 2).toNat = nnn.toNat ∧ t.stack = (s.pc + 2) :: s.stack ∧
        OnlyChanges [.pc, .stack] s t) ∧
    (s.params.stackDepth ≤ s.stack.length →
      ∃ t, exec (.call nnn) s = .next t ∧
        FaultEntry s t (.stackOverflow s.stack.length) (some (encode (.call nnn))) [])

/-- R186, R192, R126: JP goes to NNN and JP V0 to NNN + V0, not reduced to 12 bits (the spec's own inference); pc is left 2 below the
target for step 5, modulo 2^16 (the spec's decision D29). -/
def Obligations.JumpsLandOnTarget : Prop :=
  ∀ (nnn : Addr) (s : State),
    (∃ t, exec (.jp nnn) s = .next t ∧ (t.pc + 2).toNat = nnn.toNat ∧ OnlyChanges [.pc] s t) ∧
    (∃ t, exec (.jpV0 nnn) s = .next t ∧ (t.pc + 2).toNat = (s.getV 0).toNat + nnn.toNat ∧ OnlyChanges [.pc] s t)

/-- R188, R189, R190, R191: a taken skip adds 2 to pc in step 3; a skip not taken leaves it. -/
def Obligations.SkipsCompareRegisters : Prop :=
  ∀ (x y : Reg) (nn : Byte) (s : State),
    (∃ t, exec (.seImm x nn) s = .next t ∧ t.pc = (if s.getV x = nn then s.pc + 2 else s.pc) ∧ OnlyChanges [.pc] s t) ∧
    (∃ t, exec (.sneImm x nn) s = .next t ∧ t.pc = (if s.getV x = nn then s.pc else s.pc + 2) ∧ OnlyChanges [.pc] s t) ∧
    (∃ t, exec (.seReg x y) s = .next t ∧ t.pc = (if s.getV x = s.getV y then s.pc + 2 else s.pc) ∧
      OnlyChanges [.pc] s t) ∧
    (∃ t, exec (.sneReg x y) s = .next t ∧ t.pc = (if s.getV x = s.getV y then s.pc else s.pc + 2) ∧
      OnlyChanges [.pc] s t)

/-! ## Arithmetic and logic (43_alu.md) -/

/-- R215, R216, R217: the loads and the immediate add write Vx and no flag. -/
def Obligations.LoadsAndImmediateAdd : Prop :=
  ∀ (x y : Reg) (nn : Byte) (s : State),
    (∃ t, exec (.ldImm x nn) s = .next t ∧ t.getV x = nn ∧ OnlyChanges [.v x] s t) ∧
    (∃ t, exec (.addImm x nn) s = .next t ∧ (t.getV x).toNat = ((s.getV x).toNat + nn.toNat) % 256 ∧
      OnlyChanges [.v x] s t) ∧
    (∃ t, exec (.ldReg x y) s = .next t ∧ t.getV x = s.getV y ∧ OnlyChanges [.v x] s t)

/-- R218, R219, R220: OR, AND and XOR combine Vx and Vy bit by bit into Vx and write no flag. Of OR the spec infers that "VF is not
reset". -/
def Obligations.LogicWorksBitwise : Prop :=
  ∀ (x y : Reg) (s : State),
    (∃ t, exec (.orReg x y) s = .next t ∧ OnlyChanges [.v x] s t ∧
      ∀ k < 8, (t.getV x).getLsbD k = ((s.getV x).getLsbD k || (s.getV y).getLsbD k)) ∧
    (∃ t, exec (.andReg x y) s = .next t ∧ OnlyChanges [.v x] s t ∧
      ∀ k < 8, (t.getV x).getLsbD k = ((s.getV x).getLsbD k && (s.getV y).getLsbD k)) ∧
    (∃ t, exec (.xorReg x y) s = .next t ∧ OnlyChanges [.v x] s t ∧
      ∀ k < 8, (t.getV x).getLsbD k = ((s.getV x).getLsbD k ^^ (s.getV y).getLsbD k))

/-- R221, R210: ADD writes the carry of the exact sum to VF and then the sum modulo 256 to Vx, which is what VF keeps when X = F. -/
def Obligations.AddSetsCarry : Prop :=
  ∀ (x y : Reg) (s : State),
    ∃ t, exec (.addReg x y) s = .next t ∧
      (t.getV x).toNat = ((s.getV x).toNat + (s.getV y).toNat) % 256 ∧
      (x ≠ Reg.flag → (t.getV Reg.flag).toNat = if (s.getV x).toNat + (s.getV y).toNat > 255 then 1 else 0) ∧
      OnlyChanges [.v x, .v Reg.flag] s t

/-- R222, R224, R210: SUB and SUBN write "no borrow" to VF and the difference modulo 256 to Vx, where VF is no operand; where it is,
FlagAliasTable. -/
def Obligations.SubtractSetsNoBorrow : Prop :=
  ∀ (x y : Reg) (s : State), x ≠ Reg.flag → y ≠ Reg.flag →
    (∃ t, exec (.sub x y) s = .next t ∧
      (t.getV x).toNat = ((s.getV x).toNat + 256 - (s.getV y).toNat) % 256 ∧
      (t.getV Reg.flag).toNat = (if (s.getV x).toNat ≥ (s.getV y).toNat then 1 else 0) ∧
      OnlyChanges [.v x, .v Reg.flag] s t) ∧
    (∃ t, exec (.subn x y) s = .next t ∧
      (t.getV x).toNat = ((s.getV y).toNat + 256 - (s.getV x).toNat) % 256 ∧
      (t.getV Reg.flag).toNat = (if (s.getV y).toNat ≥ (s.getV x).toNat then 1 else 0) ∧
      OnlyChanges [.v x, .v Reg.flag] s t)

/-- R223, R225, R98: SHR and SHL move one bit out into VF, 0 enters, and Vy is neither read nor written; X = F is in FlagAliasTable. -/
def Obligations.ShiftsMoveBitToFlag : Prop :=
  ∀ (x y : Reg) (s : State), x ≠ Reg.flag →
    (∃ t, exec (.shr x y) s = .next t ∧ (t.getV x).toNat = (s.getV x).toNat / 2 ∧
      (t.getV Reg.flag).toNat = (s.getV x).toNat % 2 ∧ OnlyChanges [.v x, .v Reg.flag] s t) ∧
    (∃ t, exec (.shl x y) s = .next t ∧ (t.getV x).toNat = (s.getV x).toNat * 2 % 256 ∧
      (t.getV Reg.flag).toNat = (s.getV x).toNat / 128 ∧ OnlyChanges [.v x, .v Reg.flag] s t)

/-- R211: the table of the cases with X = F or Y = F, under both settings of VF_ALIAS, the spec's decision D3. -/
def Obligations.FlagAliasTable : Prop :=
  ∀ (x y z : Reg) (s : State), x ≠ Reg.flag → y ≠ Reg.flag →
    let f := s.getV Reg.flag
    let a := s.getV x
    let b := s.getV y
    let sequential := s.params.vfAlias = .sequential
    (∃ t, exec (.addReg Reg.flag y) s = .next t ∧ t.getV Reg.flag = f + b ∧ OnlyChanges [.v Reg.flag] s t) ∧
    (∃ t, exec (.addReg x Reg.flag) s = .next t ∧ t.getV x = a + f ∧
      (t.getV Reg.flag).toNat = (if a.toNat + f.toNat > 255 then 1 else 0) ∧ OnlyChanges [.v x, .v Reg.flag] s t) ∧
    (∃ t, exec (.sub Reg.flag y) s = .next t ∧ OnlyChanges [.v Reg.flag] s t ∧
      t.getV Reg.flag = if sequential then (if f.toNat ≥ b.toNat then 1 else 0) - b else f - b) ∧
    (∃ t, exec (.sub x Reg.flag) s = .next t ∧ OnlyChanges [.v x, .v Reg.flag] s t ∧
      t.getV Reg.flag = (if a.toNat ≥ f.toNat then 1 else 0) ∧
      t.getV x = if sequential then a - (if a.toNat ≥ f.toNat then 1 else 0) else a - f) ∧
    (∃ t, exec (.sub Reg.flag Reg.flag) s = .next t ∧ OnlyChanges [.v Reg.flag] s t ∧ t.getV Reg.flag = 0) ∧
    (∃ t, exec (.shr Reg.flag z) s = .next t ∧ OnlyChanges [.v Reg.flag] s t ∧
      (t.getV Reg.flag).toNat = if sequential then 0 else f.toNat / 2) ∧
    (∃ t, exec (.subn Reg.flag y) s = .next t ∧ OnlyChanges [.v Reg.flag] s t ∧
      t.getV Reg.flag = if sequential then b - (if b.toNat ≥ f.toNat then 1 else 0) else b - f) ∧
    (∃ t, exec (.subn x Reg.flag) s = .next t ∧ OnlyChanges [.v x, .v Reg.flag] s t ∧
      t.getV Reg.flag = (if f.toNat ≥ a.toNat then 1 else 0) ∧
      t.getV x = if sequential then (if f.toNat ≥ a.toNat then 1 else 0) - a else f - a) ∧
    (∃ t, exec (.subn Reg.flag Reg.flag) s = .next t ∧ OnlyChanges [.v Reg.flag] s t ∧ t.getV Reg.flag = 0) ∧
    (∃ t, exec (.shl Reg.flag z) s = .next t ∧ OnlyChanges [.v Reg.flag] s t ∧
      (t.getV Reg.flag).toNat = if sequential then f.toNat / 128 * 2 else f.toNat * 2 % 256)

/-- R226: RND writes a drawn byte masked by NN; with NN = 0 the result is 0 whatever was drawn. The byte is a free value (D23,
log 2). -/
def Obligations.RndMasksDrawnByte : Prop :=
  ∀ (x : Reg) (nn : Byte) (s : State),
    ∃ t, exec (.rnd x nn) s = .next t ∧ t.getV x = Config.rngByte s.rngCount &&& nn ∧ t.rngCount = s.rngCount + 1 ∧
      (nn = 0 → t.getV x = 0) ∧ OnlyChanges [.v x, .rngCount] s t

/-! ## Address register and memory (44_index_memory.md) -/

/-- R245, R246, R247, R248: LD I, ADD I (modulo 2^16), LD F and LD HF set I and write no flag. Of ADD I the spec infers that "VF is
not written". -/
def Obligations.IndexRegisterLoads : Prop :=
  ∀ (x : Reg) (nnn : Addr) (s : State),
    (∃ t, exec (.ldI nnn) s = .next t ∧ t.i.toNat = nnn.toNat ∧ OnlyChanges [.i] s t) ∧
    (∃ t, exec (.addI x) s = .next t ∧ t.i.toNat = (s.i.toNat + (s.getV x).toNat) % 65536 ∧ OnlyChanges [.i] s t) ∧
    (∃ t, exec (.ldF x) s = .next t ∧ t.i.toNat = (s.getV x).toNat % 16 * 5 ∧ OnlyChanges [.i] s t) ∧
    (∃ t, exec (.ldHf x) s = .next t ∧ t.i.toNat = 0x50 + (s.getV x).toNat % 16 * 10 ∧ OnlyChanges [.i] s t)

/-- R249: a block that fits: the decimal digits of Vx at I, I + 1 and I + 2, and nowhere else. -/
def Obligations.BcdStoresThreeDigits : Prop :=
  ∀ (x : Reg) (s : State), s.mem.wf → s.i.toNat + 2 < Config.memSize →
    ∃ t, exec (.ldB x) s = .next t ∧
      (t.mem.read s.i.toNat).toNat = (s.getV x).toNat / 100 ∧
      (t.mem.read (s.i.toNat + 1)).toNat = (s.getV x).toNat / 10 % 10 ∧
      (t.mem.read (s.i.toNat + 2)).toNat = (s.getV x).toNat % 10 ∧
      OnlyChanges [.byteAt s.i.toNat, .byteAt (s.i.toNat + 1), .byteAt (s.i.toNat + 2)] s t

/-- R250: a block that fits: V0..Vx at I, I + 1, ..., and nowhere else; I is unchanged. -/
def Obligations.RegisterDumpStoresBlock : Prop :=
  ∀ (x : Reg) (s : State), s.mem.wf → s.i.toNat + x.toNat < Config.memSize →
    ∃ t, exec (.ldMemVx x) s = .next t ∧
      (∀ r : Reg, r.toNat ≤ x.toNat → t.mem.read (s.i.toNat + r.toNat) = s.getV r) ∧
      OnlyChanges (bytesFrom s.i.toNat (x.toNat + 1)) s t

/-- R251: a block that fits: V0..Vx from I, I + 1, ...; the other registers, I (the spec's decision D17) and memory are unchanged. -/
def Obligations.RegisterLoadReadsBlock : Prop :=
  ∀ (x : Reg) (s : State), s.i.toNat + x.toNat < Config.memSize →
    ∃ t, exec (.ldVxMem x) s = .next t ∧
      (∀ r : Reg, r.toNat ≤ x.toNat → t.getV r = s.mem.read (s.i.toNat + r.toNat)) ∧
      OnlyChanges (regsTo x) s t

/-- R249, R250, R301: a block store that runs out of memory keeps the bytes stored before the first address outside memory and
raises BoundsError there (the spec's decision D12; log 9, log 21). -/
def Obligations.StoresPastMemoryFault : Prop :=
  ∀ (x : Reg) (s : State), s.mem.wf →
    (Config.memSize ≤ s.i.toNat + 2 →
      ∃ t, exec (.ldB x) s = .next t ∧
        (s.i.toNat < Config.memSize → (t.mem.read s.i.toNat).toNat = (s.getV x).toNat / 100) ∧
        (s.i.toNat + 1 < Config.memSize → (t.mem.read (s.i.toNat + 1)).toNat = (s.getV x).toNat / 10 % 10) ∧
        FaultEntry s t (.bounds (max s.i.toNat Config.memSize) .write) (some (encode (.ldB x)))
          (bytesFrom s.i.toNat (Config.memSize - s.i.toNat))) ∧
    (Config.memSize ≤ s.i.toNat + x.toNat →
      ∃ t, exec (.ldMemVx x) s = .next t ∧
        (∀ r : Reg, r.toNat ≤ x.toNat → s.i.toNat + r.toNat < Config.memSize →
          t.mem.read (s.i.toNat + r.toNat) = s.getV r) ∧
        FaultEntry s t (.bounds (max s.i.toNat Config.memSize) .write) (some (encode (.ldMemVx x)))
          (bytesFrom s.i.toNat (Config.memSize - s.i.toNat)))

/-- R251, R301: a block load that runs out of memory keeps the registers loaded before the first address outside memory and raises
BoundsError there (the spec's decision D12; log 9, log 21). -/
def Obligations.LoadPastMemoryFaults : Prop :=
  ∀ (x : Reg) (s : State), Config.memSize ≤ s.i.toNat + x.toNat →
    ∃ t, exec (.ldVxMem x) s = .next t ∧
      (∀ r : Reg, r.toNat ≤ x.toNat → s.i.toNat + r.toNat < Config.memSize →
        t.getV r = s.mem.read (s.i.toNat + r.toNat)) ∧
      (∀ r : Reg, Config.memSize ≤ s.i.toNat + r.toNat → t.getV r = s.getV r) ∧
      FaultEntry s t (.bounds (max s.i.toNat Config.memSize) .read) (some (encode (.ldVxMem x))) (regsTo x)

/-! ## Keys and timers (45_keys_timers.md) -/

/-- R275, R276, R270: SKP and SKNP test the key numbered by Vx, below 16 or masked as KEY_INDEX_POLICY says (the spec's decision
D9). -/
def Obligations.KeySkipsTestKey : Prop :=
  ∀ (x : Reg) (s : State), (s.getV x).toNat < 16 ∨ s.params.keyIndex = .mask →
    (∃ t, exec (.skp x) s = .next t ∧ OnlyChanges [.pc] s t ∧
      t.pc = if s.isDown (BitVec.ofNat 4 ((s.getV x).toNat % 16)) = true then s.pc + 2 else s.pc) ∧
    (∃ t, exec (.sknp x) s = .next t ∧ OnlyChanges [.pc] s t ∧
      t.pc = if s.isDown (BitVec.ofNat 4 ((s.getV x).toNat % 16)) = true then s.pc else s.pc + 2)

/-- R270, R300: a key index of 16 or more raises KeyIndexError under KEY_INDEX_POLICY = fault (the spec's decision D9; log 9, log 21). -/
def Obligations.KeyIndexErrorRaised : Prop :=
  ∀ (x : Reg) (s : State), 16 ≤ (s.getV x).toNat → s.params.keyIndex = .fault →
    (∃ t, exec (.skp x) s = .next t ∧ FaultEntry s t (.keyIndex (s.getV x)) (some (encode (.skp x))) []) ∧
    (∃ t, exec (.sknp x) s = .next t ∧ FaultEntry s t (.keyIndex (s.getV x)) (some (encode (.sknp x))) [])

/-- R277, R280, R281: FX07 reads DT, FX15 sets DT, and FX18 sets ST and the tone. That FX15 leaves DT.last is the spec's decision
D13. -/
def Obligations.TimerMoves : Prop :=
  ∀ (x : Reg) (s : State),
    (∃ t, exec (.ldVxDt x) s = .next t ∧ t.getV x = s.dt ∧ OnlyChanges [.v x] s t) ∧
    (∃ t, exec (.ldDtVx x) s = .next t ∧ t.dt = s.getV x ∧ OnlyChanges [.dt] s t) ∧
    (∃ t, exec (.ldStVx x) s = .next t ∧ t.st = s.getV x ∧ (t.tone = true ↔ s.getV x ≠ 0) ∧ OnlyChanges [.st] s t)

/-- R278, R130: FX0A clears `pressed` (the spec's decision D10) and waits; pc stays and no timer ticks in that step. -/
def Obligations.KeyWaitSuspends : Prop :=
  ∀ (x : Reg) (s : State),
    ∃ t, exec (.ldVxK x) s = .next t ∧ t.wait = some x ∧ t.pressed = false ∧ OnlyChanges [.pressed, .wait] s t

/-- R279, R320: with a key edge the waiting machine writes the latched key to Vx, ends the wait, and finishes the suspended cycle,
whatever inputs come after it (log 10); its tick is D13's (log 3, log 4). Without an edge no CORE step is enabled, which the model
answers by a fault of its own name (log 22). -/
def Obligations.KeyWaitCompletes : Prop :=
  ∀ (x : Reg) (s : State), CoreNext s → s.run = .running → s.wait = some x →
    (s.pressed = true →
      ∃ t u, step s = .next u ∧ EndedCycle t u ∧ (t.getV x).toNat = s.lastKey.toNat ∧ t.wait = none ∧
        OnlyChanges [.v x, .wait] s.dequeue t) ∧
    (s.pressed = false → step s = .fault (.keyWait x))

/-! ## Memory and whole-machine rules -/

/-- R61: the bounds-checked primitives: inside memory a write changes its own byte alone and a read gives the byte; outside, both
raise BoundsError with the address and the kind. That a write keeps the list canonical is about the model's form of memory
(log 8). -/
def Obligations.MemoryIsBoundsChecked : Prop :=
  ∀ (s : State) (a : Nat) (b : Byte) (k : AccessKind), s.mem.wf →
    (a < Config.memSize →
      s.memRead k a = .ok (s.mem.read a) ∧
      ∃ t, s.memWrite a b = .ok t ∧ t.mem.read a = b ∧ t.mem.wf ∧ OnlyChanges [.byteAt a] s t) ∧
    (Config.memSize ≤ a → s.memRead k a = .error (.bounds a k) ∧ s.memWrite a b = .error (.bounds a .write))

/-- R22, R23, R26, R28, R67, R126: every instruction changes only the parts the spec names for it; what a fault entry may change is
the spec's decision D12 (log 9), and the draw count of RND is the model's own field (log 2). -/
def Obligations.InstructionFrame : Prop :=
  ∀ (i : Instr) (s t : State), s.mem.wf → exec i s = .next t → OnlyChanges (mayChange s i) s t

/-- R101, R316, R300: every instruction runs in every state: step 3 answers a next state, never a fault or a refusal, and it either
keeps the run state or enters Faulted. That a fatal error is a next state is the model's choice (log 9). -/
def Obligations.EveryInstructionRuns : Prop :=
  ∀ (i : Instr) (s : State),
    ∃ t, exec i s = .next t ∧ ((t.run = s.run ∧ t.fault = s.fault) ∨ (t.run = .faulted ∧ t.fault.isSome = true))

/-- R300, R301: an instruction that enters Faulted raised an error R300 lists for it, recorded with its address and its word
(log 21), and wrote neither pc nor the stack (the spec's own inference). -/
def Obligations.OnlyListedErrorsRaised : Prop :=
  ∀ (i : Instr) (s t : State), s.run ≠ .faulted → exec i s = .next t → t.run = .faulted →
    (∃ e, mayRaise i e ∧ t.fault = some ⟨e, s.pc, some (encode i)⟩) ∧ t.pc = s.pc ∧ t.stack = s.stack

/-- R29, R30: no instruction reads ST or a timestamp: other values of them change nothing but themselves. It compares two runs, in
which RND draws equal bytes because the counts of draws are equal, the model's choice (log 2). -/
def Obligations.SoundTimerIsNotReadable : Prop :=
  ∀ (i : Instr) (s t : State) (b : Byte) (d e : Nat), exec i s = .next t →
    ∃ t', exec i { s with st := b, dtLast := d, stLast := e } = .next t' ∧ OnlyChanges [.st, .dtLast, .stLast] t t' ∧
      t'.dtLast = d ∧ t'.stLast = e ∧ (t'.st = t.st ∨ t'.st = b)

/-- R28, R32, R35, R60, R355, as an invariant of the model: every step, of the CORE, the host or the keypad, keeps `State.Inv`. The
canonical list is the model's form of memory (log 8). -/
def Obligations.StepKeepsInvariant : Prop :=
  ∀ s t : State, s.Inv → step s = .next t → t.Inv

/-- R37, R350: the state a machine is created in (the spec's decision D30), with the default parameters or any others, meets
`State.Inv`. -/
def Obligations.ResetMeetsInvariant : Prop := State.reset.Inv ∧ ∀ p : Params, (State.created p).Inv

/-- R7, R36: no step changes the parameters, which the model holds in State (log 1). -/
def Obligations.ParametersNeverChange : Prop :=
  ∀ s t : State, step s = .next t → t.params = s.params

/-! ## The host and the keypad (60_exceptions.md, 70_reset_and_hazards.md) -/

/-- R37, R326, R351: stop is admitted in every state and leaves every piece of the spec's state at its reset value. The values the
source does not state are the spec's decisions D13, D14 and D22: the time of the reset is a clock reading, the model's free value
(log 4), the large font another (log 5), and the small font is the parameter FONT_SMALL, any 80 bytes (log 1, log 6).
The model's own fields go on, with one clock reading used up: parameters, draws, events received and inputs to come (log 14). -/
def Obligations.StopResetsEverything : Prop :=
  ∀ s : State, hostReply .stop s = .accepted ∧
    ∃ t, hostStep .stop s = .next t ∧ ResetTable (Config.clock s.tickCount) t ∧ t.params = s.params ∧
      t.tickCount = s.tickCount + 1 ∧ t.rngCount = s.rngCount ∧ t.diag = s.diag ∧ t.schedule = s.schedule

/-- R37, R350, R7, and the spec's decision D30: the state a machine is created in has the reset values whatever its parameters, and
with the defaults of R7 it is `State.reset`. The timestamps of 0 are the model's choice of the time of creation (log 4); where the
parameters stand is log 1; fonts as in log 5 and log 6; nothing drawn, received or to come is log 14. -/
def Obligations.CreatedStateIsReset : Prop :=
  State.created Params.default = State.reset ∧
  ∀ p : Params,
    let t := State.created p
    ResetTable 0 t ∧ t.params = p ∧ t.tickCount = 0 ∧ t.rngCount = 0 ∧ t.diag = [] ∧ t.schedule = []

/-- R328, the spec's own collection: a step takes only the run-state transitions of the table, for the input that causes it, and
keeps the run state where that input is not admitted (the spec's decision D31). The input comes from the model's schedule (log 10). -/
def Obligations.RunStateTransitions : Prop :=
  ∀ s t : State, step s = .next t → RunEdge s t.run (s.schedule.headD .core)

/-- R302: Faulted is left only by stop (the spec's decision D31); any other step leaves the record and the run state. -/
def Obligations.FaultedLeftOnlyByStop : Prop :=
  ∀ s t : State, s.run = .faulted → step s = .next t →
    (t.run = .faulted ∧ t.fault = s.fault) ∨ s.schedule.head? = some (.host .stop)

/-- R321 to R325, R354: an operation outside its admitted states is rejected with no state change, the spec's decision D31. -/
def Obligations.UnadmittedOperationsRejected : Prop :=
  ∀ (s : State) (bytes : List Byte) (w : Word),
    (s.run ≠ .idle → Rejected (.loadProgram bytes) s) ∧ (s.run ≠ .loaded → Rejected .play s) ∧
    (s.run ≠ .running → Rejected .pause s) ∧ (s.run ≠ .paused → Rejected .resume s) ∧
    (s.run ≠ .loaded → s.run ≠ .paused → Rejected .stepOneCycle s ∧ Rejected (.executeRaw w) s) ∧
    (s.wait ≠ none → Rejected (.executeRaw w) s)

/-- R321, R322, R323: play, pause and resume move the run state and touch nothing else, a pending wait included (the spec's decision
D11). -/
def Obligations.PlayPauseResume : Prop :=
  ∀ s : State,
    (s.run = .loaded → hostReply .play s = .accepted ∧
      ∃ t, hostStep .play s = .next t ∧ t.run = .running ∧ OnlyChanges [.run] s t) ∧
    (s.run = .running → hostReply .pause s = .accepted ∧
      ∃ t, hostStep .pause s = .next t ∧ t.run = .paused ∧ OnlyChanges [.run] s t) ∧
    (s.run = .paused → hostReply .resume s = .accepted ∧
      ∃ t, hostStep .resume s = .next t ∧ t.run = .running ∧ OnlyChanges [.run] s t)

/-- R354, R355, R356: in Idle a program of at most 3584 bytes is copied to ORIGIN, pc is set to ORIGIN and the machine is Loaded; a
longer one is reported as LoadOversize and changes nothing (the spec's decision D15 and its choice in C12). -/
def Obligations.LoadProgramCopiesOrReports : Prop :=
  ∀ (s : State) (bytes : List Byte), s.run = .idle → s.mem.wf →
    (bytes.length ≤ 3584 → hostReply (.loadProgram bytes) s = .accepted ∧
      ∃ t, hostStep (.loadProgram bytes) s = .next t ∧ t.run = .loaded ∧ t.pc = 0x200 ∧
        (∀ k < bytes.length, t.mem.read (0x200 + k) = bytes.getD k 0) ∧
        OnlyChanges ([.run, .pc] ++ bytesFrom 0x200 bytes.length) s t) ∧
    (3584 < bytes.length →
      hostReply (.loadProgram bytes) s = .loadOversize ∧ hostStep (.loadProgram bytes) s = .next s)

/-- R324, the spec's decision D16: stepOneCycle runs one cycle, fetch included, or completes a wait whose key edge has come, and
leaves the machine Paused, or Faulted on a fatal error (D12, log 9; fetch checks: D7, D27; ticks: D13, log 3, log 4; unknown
words: D2, D28, log 12, log 13); while no edge has come the caller is blocked, which the model answers by a fault of its own
name (log 22). -/
def Obligations.StepOneCycleThenPaused : Prop :=
  ∀ s : State, MayStep s →
    (s.wait = none → ∀ t, cycle s = .next t →
      ∃ u, hostStep .stepOneCycle s = .next u ∧ OnlyChanges [.run] t u ∧
        u.run = if t.run = .faulted then .faulted else .paused) ∧
    (s.wait = none → Fetchable s → HostRan s (wordAtPc s) (hostStep .stepOneCycle s)) ∧
    (s.wait = none → FetchErrorEntered s (hostStep .stepOneCycle s)) ∧
    (∀ x, s.wait = some x → s.pressed = true →
      ∃ t u v, hostStep .stepOneCycle s = .next v ∧ (t.getV x).toNat = s.lastKey.toNat ∧ t.wait = none ∧
        OnlyChanges [.v x, .wait] s t ∧ EndedCycle t u ∧ PausedFrom u v) ∧
    (∀ x, s.wait = some x → s.pressed = false →
      hostReply .stepOneCycle s = .blocked ∧ hostStep .stepOneCycle s = .fault .stepBlocked)

/-- R325, R129, R311, the spec's decision D16: executeRawInstruction runs steps 2 to 5 on the given word, whatever it is, with no
fetch check, and leaves the machine Paused, or Faulted (D12, log 9; ticks: D13, log 3, log 4). An unknown word is logged and ends
the cycle, or is refused, by UNKNOWN_WORD_POLICY (D2, D28; log 12, log 13). -/
def Obligations.ExecuteRawSkipsFetch : Prop :=
  ∀ (s : State) (w : Word), MayStep s → s.wait = none → HostRan s w (hostStep (.executeRaw w) s)

/-- R331, the spec's decision D10: setDown writes the key's flag in every run state, and an up-to-down transition sets the latch and
`pressed`. The event comes from the model's schedule (log 10). -/
def Obligations.SetDownLatchesEdges : Prop :=
  ∀ (s : State) (k : Nibble) (b : Bool) (rest : List Event), s.schedule = .setDown k b :: rest →
    ∃ t, step s = .next t ∧ t.isDown k = b ∧ (∀ j, j ≠ k → t.isDown j = s.isDown j) ∧
      (b = true ∧ s.isDown k = false → t.lastKey = k ∧ t.pressed = true) ∧
      (¬(b = true ∧ s.isDown k = false) → t.lastKey = s.lastKey ∧ t.pressed = s.pressed) ∧
      t.schedule = rest ∧ OnlyChanges [.keys, .lastKey, .pressed, .schedule] s t

/-- R327: the views are admitted in every state, change nothing, and the framebuffer view is (res, W, H, fb). -/
def Obligations.ViewsChangeNothing : Prop :=
  ∀ s : State,
    hostStep .getFramebufferView s = .next s ∧ hostReply .getFramebufferView s = .view s.res s.width s.height s.fb ∧
    hostStep .getInputStateHandle s = .next s ∧ hostReply .getInputStateHandle s = .inputHandle

/-- R320: `step` takes the next input of the schedule, which is a host operation, a keypad event or a CORE step, with that input
removed. The schedule is the model's way to show the spec's free order (log 10). -/
def Obligations.StepTakesNextInput : Prop :=
  ∀ (s : State) (e : Event) (rest : List Event), s.schedule = e :: rest →
    step s =
      match e with
      | .core => coreStep { s with schedule := rest }
      | .host op => hostStep op { s with schedule := rest }
      | .setDown k b => .next ({ s with schedule := rest }.setDown k b)
end

