-- ==== Sys2Proof/Laws/Grid.lean ====
section
/-!
SUPPORT. What the framebuffer primitives do to each pixel (41_display.md R150 to R154), and that they keep the grid's size.
-/

namespace Sys2Proof.Machine

/-! ## Building, clearing -/

theorem Grid.sized_build (w h : Nat) (f : Nat → Nat → Bool) : (Grid.build w h f).sized w h := by
  refine ⟨by simp [Grid.build], fun row hr => ?_⟩
  obtain ⟨y, _, rfl⟩ := List.mem_map.1 hr
  simp

theorem Grid.pixel_build {w h x y : Nat} (f : Nat → Nat → Bool) (hx : x < w) (hy : y < h) :
    (Grid.build w h f).pixel x y = f x y := by
  simp [Grid.build, Grid.pixel, hx, hy]

theorem Grid.sized_blank (w h : Nat) : (Grid.blank w h).sized w h := by
  simp only [Grid.sized, Grid.blank, List.length_replicate, true_and]
  intro row hr
  simp [List.eq_of_mem_replicate hr]

@[simp] theorem Grid.pixel_blank (w h x y : Nat) : (Grid.blank w h).pixel x y = false := by
  unfold Grid.pixel Grid.blank
  by_cases hy : y < h <;> by_cases hx : x < w <;> simp [List.getD_eq_getElem?_getD, hx, hy]

/-! ## One pixel -/

theorem Grid.sized_flip {w h : Nat} {g : Grid} (hg : g.sized w h) (x y : Nat) : (g.flip x y).sized w h := by
  refine ⟨by simp [Grid.flip, hg.1], fun row hr => ?_⟩
  obtain ⟨k, hk, rfl⟩ := List.getElem_of_mem hr
  simp only [Grid.flip, List.length_modify] at hk
  simp only [Grid.flip, List.getElem_modify]
  split_ifs <;> simp [hg.2 _ (List.getElem_mem hk)]

/-- A flip inverts its pixel and leaves every other pixel alone. -/
theorem Grid.pixel_flip {w h : Nat} {g : Grid} (hg : g.sized w h) {x y : Nat} (hx : x < w) (hy : y < h) (a b : Nat) :
    (g.flip x y).pixel a b = if a = x ∧ b = y then !g.pixel x y else g.pixel a b := by
  have hyl : y < g.length := hg.1 ▸ hy
  have hxl : x < (g[y]).length := by rw [hg.2 _ (List.getElem_mem hyl)]; exact hx
  unfold Grid.pixel Grid.flip
  by_cases hb : b = y
  · subst hb
    by_cases ha : a = x
    · subst ha; simp [hyl, hxl]
    · simp [List.getD_eq_getElem?_getD, hyl, ha, Ne.symm ha]
  · simp [List.getD_eq_getElem?_getD, Ne.symm hb, hb]

/-! ## A sprite row -/

/-- Whether one of the bits numbered by the list lands on column a. -/
def spriteHits (w : Nat) (edge : SpriteEdge) (x0 : Nat) (b : Byte) (is : List Nat) (a : Nat) : Bool :=
  is.any fun i => b.getLsbD (7 - i) && spriteColumn w edge (x0 + i) == some a

theorem spriteColumn_lt {w : Nat} {edge : SpriteEdge} {xi a : Nat} (hw : 0 < w) (h : spriteColumn w edge xi = some a) :
    a < w := by
  unfold spriteColumn at h
  split_ifs at h with hlt
  · simp_all
  · cases edge <;> simp at h
    exact h ▸ Nat.mod_lt _ hw

/-- Bits less than a grid's width apart land on different columns. -/
theorem spriteColumn_inj {w : Nat} {edge : SpriteEdge} {x0 i j a : Nat} (hx : x0 < w) (hi : i < w) (hj : j < w)
    (h1 : spriteColumn w edge (x0 + i) = some a) (h2 : spriteColumn w edge (x0 + j) = some a) : i = j := by
  have mod_of : ∀ k, k < w → ¬x0 + k < w → (x0 + k) % w = x0 + k - w := fun k hk hn => by
    rw [Nat.mod_eq_sub_mod (by omega), Nat.mod_eq_of_lt (by omega)]
  unfold spriteColumn at h1 h2
  split_ifs at h1 h2 with p q q <;> cases edge <;> simp at h1 h2
  · omega
  · omega
  · have := mod_of j hj q; omega
  · have := mod_of i hi p; omega
  · have := mod_of i hi p; have := mod_of j hj q; omega

theorem Grid.sized_drawBits {w h : Nat} {edge : SpriteEdge} {x0 y0 : Nat} {b : Byte} {is : List Nat} {g : Grid} {col : Bool}
    (hg : g.sized w h) : (Grid.drawBits w edge x0 y0 b is g col).1.sized w h := by
  induction is generalizing g col with
  | nil => exact hg
  | cons i is ih =>
    unfold Grid.drawBits
    split_ifs
    · cases spriteColumn w edge (x0 + i) with
      | none => exact ih hg
      | some xi => exact ih (Grid.sized_flip hg xi y0)
    · exact ih hg

/-- Drawing bits flips exactly the pixels they land on. -/
theorem Grid.pixel_drawBits {w h : Nat} {edge : SpriteEdge} {x0 y0 : Nat} {b : Byte} {is : List Nat} {g : Grid} {col : Bool}
    (hg : g.sized w h) (hx : x0 < w) (hy : y0 < h) (his : is.Nodup) (hlt : ∀ i ∈ is, i < w) (p q : Nat) :
    (Grid.drawBits w edge x0 y0 b is g col).1.pixel p q =
      (g.pixel p q ^^ (decide (q = y0) && spriteHits w edge x0 b is p)) := by
  have hw : 0 < w := by omega
  induction is generalizing g col with
  | nil => simp [Grid.drawBits, spriteHits]
  | cons i is ih =>
    have hnd := List.nodup_cons.1 his
    have hlt' : ∀ j ∈ is, j < w := fun j hj => hlt j (by simp [hj])
    unfold Grid.drawBits
    by_cases hb : b.getLsbD (7 - i) = true
    · rw [if_pos hb]
      cases hc : spriteColumn w edge (x0 + i) with
      | none => simp [ih hg hnd.2 hlt', spriteHits, hb, hc]
      | some xi =>
        have hxi := spriteColumn_lt hw hc
        simp only [ih (Grid.sized_flip hg xi y0) hnd.2 hlt', Grid.pixel_flip hg hxi hy, spriteHits, List.any_cons, hb, hc]
        by_cases hq : q = y0
        · subst hq
          by_cases hp : p = xi
          · subst hp
            have : spriteHits w edge x0 b is p = false := by
              rw [spriteHits, List.any_eq_false]
              intro j hj hjp
              simp only [Bool.and_eq_true, beq_iff_eq] at hjp
              exact hnd.1 (spriteColumn_inj hx (hlt i (by simp)) (hlt' j hj) hc hjp.2 ▸ hj)
            unfold spriteHits at this
            simp [this]
          · simp [hp, Ne.symm hp]
        · simp [hq]
    · simp [hb, ih hg hnd.2 hlt', spriteHits]

/-- Drawing bits reports a collision exactly when a lit pixel is flipped. -/
theorem Grid.collision_drawBits {w h : Nat} {edge : SpriteEdge} {x0 y0 : Nat} {b : Byte} {is : List Nat} {g : Grid}
    {col : Bool} (hg : g.sized w h) (hx : x0 < w) (hy : y0 < h) (his : is.Nodup) (hlt : ∀ i ∈ is, i < w) :
    (Grid.drawBits w edge x0 y0 b is g col).2 = true ↔
      col = true ∨ ∃ p, g.pixel p y0 = true ∧ spriteHits w edge x0 b is p = true := by
  have hw : 0 < w := by omega
  induction is generalizing g col with
  | nil => simp [Grid.drawBits, spriteHits]
  | cons i is ih =>
    have hnd := List.nodup_cons.1 his
    have hlt' : ∀ j ∈ is, j < w := fun j hj => hlt j (by simp [hj])
    unfold Grid.drawBits
    by_cases hb : b.getLsbD (7 - i) = true
    · rw [if_pos hb]
      cases hc : spriteColumn w edge (x0 + i) with
      | none => simp [ih hg hnd.2 hlt', spriteHits, hb, hc]
      | some xi =>
        have hxi := spriteColumn_lt hw hc
        have hnot : spriteHits w edge x0 b is xi = false := by
          rw [spriteHits, List.any_eq_false]
          intro j hj hjp
          simp only [Bool.and_eq_true, beq_iff_eq] at hjp
          exact hnd.1 (spriteColumn_inj hx (hlt i (by simp)) (hlt' j hj) hc hjp.2 ▸ hj)
        have hcons : ∀ p, spriteHits w edge x0 b (i :: is) p = (decide (p = xi) || spriteHits w edge x0 b is p) := by
          intro p
          simp only [spriteHits, List.any_cons, hb, hc, Bool.true_and]
          by_cases hp : p = xi
          · simp [hp]
          · simp [hp, Ne.symm hp]
        simp only [ih (Grid.sized_flip hg xi y0) hnd.2 hlt', Grid.pixel_flip hg hxi hy, hcons, Bool.or_eq_true,
          decide_eq_true_eq]
        constructor
        · rintro ((h | h) | ⟨p, h1, h2⟩)
          · exact .inl h
          · exact .inr ⟨xi, h, .inl rfl⟩
          · have hp : p ≠ xi := by rintro rfl; simp [hnot] at h2
            exact .inr ⟨p, by simpa [hp] using h1, .inr h2⟩
        · rintro (h | ⟨p, h1, rfl | h2⟩)
          · exact .inl (.inl h)
          · exact .inl (.inr h1)
          · have hp : p ≠ xi := by rintro rfl; simp [hnot] at h2
            exact .inr ⟨p, by simpa [hp] using h1, h2⟩
    · simp [hb, ih hg hnd.2 hlt', spriteHits]

/-- Whether a sprite row at (x, y) flips the pixel (p, q), R151 and R152. -/
def rowHits (w h : Nat) (edge : SpriteEdge) (x y : Nat) (b : Byte) (p q : Nat) : Bool :=
  decide (q = y % h) && spriteHits w edge (x % w) b [0, 1, 2, 3, 4, 5, 6, 7] p

theorem Grid.sized_drawRow {w h : Nat} {edge : SpriteEdge} {x y : Nat} {b : Byte} {g : Grid} (hg : g.sized w h) :
    (Grid.drawRow w h edge x y b g).1.sized w h := Grid.sized_drawBits hg

/-- `fb.drawRow` flips exactly the pixels its 1 bits land on (R151). -/
theorem Grid.pixel_drawRow {w h : Nat} {edge : SpriteEdge} {x y : Nat} {b : Byte} {g : Grid} (hg : g.sized w h)
    (hw : 8 ≤ w) (hh : 0 < h) (p q : Nat) :
    (Grid.drawRow w h edge x y b g).1.pixel p q = (g.pixel p q ^^ rowHits w h edge x y b p q) :=
  Grid.pixel_drawBits hg (Nat.mod_lt _ (by omega)) (Nat.mod_lt _ hh) (by decide)
    (fun i hi => by simp at hi; omega) p q

/-- `fb.drawRow` reports a collision exactly when it turns a lit pixel off (R151). -/
theorem Grid.collision_drawRow {w h : Nat} {edge : SpriteEdge} {x y : Nat} {b : Byte} {g : Grid} (hg : g.sized w h)
    (hw : 8 ≤ w) (hh : 0 < h) :
    (Grid.drawRow w h edge x y b g).2 = true ↔ ∃ p q, g.pixel p q = true ∧ rowHits w h edge x y b p q = true := by
  unfold Grid.drawRow
  rw [Grid.collision_drawBits hg (Nat.mod_lt _ (by omega)) (Nat.mod_lt _ hh) (by decide)
    (fun i hi => by simp at hi; omega)]
  simp [rowHits]

/-- A flipped pixel lies in the grid. -/
theorem rowHits_in_grid {w h : Nat} {edge : SpriteEdge} {x y : Nat} {b : Byte} {p q : Nat} (hw : 0 < w) (hh : 0 < h)
    (hit : rowHits w h edge x y b p q = true) : p < w ∧ q < h := by
  simp only [rowHits, Bool.and_eq_true, decide_eq_true_eq, spriteHits, List.any_eq_true, beq_iff_eq] at hit
  obtain ⟨rfl, i, _, _, hc⟩ := hit
  exact ⟨spriteColumn_lt hw hc, Nat.mod_lt _ hh⟩

/-! ## Scrolling (R153) -/

theorem Grid.sized_scrollDown (w h n : Nat) (g : Grid) : (Grid.scrollDown w h n g).sized w h := Grid.sized_build ..

theorem Grid.sized_scrollRight (w h n : Nat) (g : Grid) : (Grid.scrollRight w h n g).sized w h := Grid.sized_build ..

theorem Grid.sized_scrollLeft (w h n : Nat) (g : Grid) : (Grid.scrollLeft w h n g).sized w h := Grid.sized_build ..

/-- Going n forward and n back modulo m. -/
theorem mod_back {m a : Nat} (n : Nat) (ha : a < m) : ((a + n) % m + (m - n % m)) % m = a := by
  have hm : 0 < m := by omega
  have h1 := Nat.mod_lt n hm
  rw [Nat.mod_add_mod, show a + n + (m - n % m) = a + m + (n - n % m) by have := Nat.mod_le n m; omega]
  rw [show n - n % m = m * (n / m) by have := Nat.div_add_mod n m; omega, Nat.add_mul_mod_self_left, Nat.add_mod_right,
    Nat.mod_eq_of_lt ha]

/-- Row y goes to row (y + n) mod H. -/
theorem Grid.pixel_scrollDown {w h x y : Nat} (n : Nat) (g : Grid) (hx : x < w) (hy : y < h) :
    (Grid.scrollDown w h n g).pixel x ((y + n) % h) = g.pixel x y := by
  unfold Grid.scrollDown
  rw [Grid.pixel_build _ hx (Nat.mod_lt _ (by omega)), mod_back n hy]

/-- Column x goes to column (x + n) mod W. -/
theorem Grid.pixel_scrollRight {w h x y : Nat} (n : Nat) (g : Grid) (hx : x < w) (hy : y < h) :
    (Grid.scrollRight w h n g).pixel ((x + n) % w) y = g.pixel x y := by
  unfold Grid.scrollRight
  rw [Grid.pixel_build _ (Nat.mod_lt _ (by omega)) hy, mod_back n hx]

/-- The pixel at column x comes from column (x + n) mod W. -/
theorem Grid.pixel_scrollLeft {w h x y : Nat} (n : Nat) (g : Grid) (hx : x < w) (hy : y < h) :
    (Grid.scrollLeft w h n g).pixel x y = g.pixel ((x + n) % w) y := by
  unfold Grid.scrollLeft
  rw [Grid.pixel_build _ hx hy]

end Sys2Proof.Machine
end

