-- ==== Sys2Proof/Laws/Memory.lean ====
section
/-!
SUPPORT. Memory as a map from addresses to bytes: a read after a write (20_memory.md R61, R68), and that every operation keeps the
canonical form.
-/

namespace Sys2Proof.Machine

/-- An address below every listed one reads as an unlisted one. -/
theorem Memory.read_of_lt {m : Memory} {a : Nat} (h : ∀ c ∈ m, a < c.1) : m.read a = resetByte a := by
  induction m with
  | nil => rfl
  | cons c m ih =>
    have hc : a ≠ c.1 := (h c (by simp)).ne
    simp only [Memory.read, if_neg hc]
    exact ih fun d hd => h d (by simp [hd])

theorem Memory.wf_tail {c : Host.Cell} {m : Memory} (h : Memory.wf (c :: m)) : Memory.wf m :=
  ⟨(List.pairwise_cons.1 h.1).2, fun d hd => h.2 d (by simp [hd])⟩

theorem Memory.lt_of_wf_cons {c : Host.Cell} {m : Memory} (h : Memory.wf (c :: m)) : ∀ d ∈ m, c.1 < d.1 :=
  (List.pairwise_cons.1 h.1).1

/-- A read after a write gives the byte written at that address, and the old byte at every other. -/
theorem Memory.read_write {m : Memory} (hm : m.wf) (a b : Nat) (v : Byte) :
    (m.write a v).read b = if b = a then v else m.read b := by
  induction m with
  | nil => unfold Memory.write; split_ifs <;> simp_all [Memory.read]
  | cons c m ih =>
    obtain ⟨k, u⟩ := c
    have hlt : ∀ d ∈ m, k < d.1 := Memory.lt_of_wf_cons hm
    have below : ∀ j, j ≤ k → Memory.read m j = resetByte j := fun j hj =>
      Memory.read_of_lt fun d hd => lt_of_le_of_lt hj (hlt d hd)
    have ih := ih (Memory.wf_tail hm)
    rcases lt_trichotomy a k with h | h | h
    · have ha := below a h.le
      by_cases hv : v = resetByte a <;> by_cases hb : b = a <;> simp_all [Memory.write, Memory.read, h.ne]
    · subst h
      have ha := below a le_rfl
      by_cases hv : v = resetByte a <;> by_cases hb : b = a <;> simp_all [Memory.write, Memory.read]
    · by_cases hb : b = k
      · subst hb; simp [Memory.write, Memory.read, h.not_gt, h.ne', h.ne]
      · simp [Memory.write, Memory.read, h.not_gt, h.ne', hb, ih]

/-- The addresses listed after a write were listed before, or are the one written. -/
theorem Memory.mem_write {m : Memory} {a : Nat} {v : Byte} {c : Host.Cell} (h : c ∈ m.write a v) :
    c ∈ m ∨ (c = (a, v) ∧ v ≠ resetByte a) := by
  induction m with
  | nil => unfold Memory.write at h; split_ifs at h <;> simp_all
  | cons d m ih =>
    unfold Memory.write at h
    split_ifs at h <;> simp only [List.mem_cons] at h ⊢ <;> tauto

/-- A write inside the address space keeps the canonical form. -/
theorem Memory.wf_write {m : Memory} (hm : m.wf) {a : Nat} (ha : a < Config.memSize) (v : Byte) :
    Memory.wf (m.write a v) := by
  constructor
  · induction m with
    | nil => unfold Memory.write; split_ifs <;> simp
    | cons d m ih =>
      have hlt := Memory.lt_of_wf_cons hm
      have ht := Memory.wf_tail hm
      unfold Memory.write
      split_ifs with h1 h2 h3 h4
      · exact hm.1
      · refine List.pairwise_cons.2 ⟨?_, hm.1⟩
        rintro e he
        rcases List.mem_cons.1 he with rfl | he
        · exact h1
        · exact h1.trans (hlt e he)
      · exact ht.1
      · exact List.pairwise_cons.2 ⟨fun e he => h3 ▸ hlt e he, ht.1⟩
      · refine List.pairwise_cons.2 ⟨fun e he => ?_, ih ht⟩
        rcases Memory.mem_write he with he | ⟨rfl, _⟩
        · exact hlt e he
        · exact lt_of_le_of_ne (not_lt.1 h1) (Ne.symm h3)
  · intro c hc
    rcases Memory.mem_write hc with hc | ⟨rfl, hv⟩
    · exact hm.2 c hc
    · exact ⟨ha, hv⟩

/-- Canonical memories that read the same everywhere are the same list. -/
theorem Memory.ext {m n : Memory} (hm : m.wf) (hn : n.wf) (h : ∀ a, m.read a = n.read a) : m = n := by
  induction m generalizing n with
  | nil =>
    cases n with
    | nil => rfl
    | cons d n => exact absurd (by simpa [Memory.read] using (h d.1).symm) (hn.2 d (by simp)).2
  | cons c m ih =>
    obtain ⟨j, u⟩ := c
    cases n with
    | nil => exact absurd (by simpa [Memory.read] using h j) (hm.2 (j, u) (by simp)).2
    | cons d n =>
      obtain ⟨k, w⟩ := d
      have hjm := Memory.lt_of_wf_cons hm
      have hkn := Memory.lt_of_wf_cons hn
      have hjk : j = k := by
        by_contra hne
        rcases lt_or_gt_of_ne hne with hl | hl
        · have := h j
          rw [Memory.read_of_lt (m := (k, w) :: n) (by
            rintro e he
            rcases List.mem_cons.1 he with rfl | he
            · exact hl
            · exact hl.trans (hkn e he))] at this
          exact (hm.2 (j, u) (by simp)).2 (by simpa [Memory.read] using this)
        · have := h k
          rw [Memory.read_of_lt (m := (j, u) :: m) (by
            rintro e he
            rcases List.mem_cons.1 he with rfl | he
            · exact hl
            · exact hl.trans (hjm e he))] at this
          exact (hn.2 (k, w) (by simp)).2 (by simpa [Memory.read] using this.symm)
      subst hjk
      have huw : u = w := by simpa [Memory.read] using h j
      subst huw
      congr 1
      refine ih (Memory.wf_tail hm) (Memory.wf_tail hn) fun a => ?_
      by_cases ha : a = j
      · subst ha; rw [Memory.read_of_lt hjm, Memory.read_of_lt hkn]
      · simpa [Memory.read, ha] using h a

/-- Bytes stored at increasing addresses inside the address space keep the canonical form. -/
theorem Memory.wf_writeList {m : Memory} (hm : m.wf) {a : Nat} {bs : List Byte} (h : a + bs.length ≤ Config.memSize) :
    Memory.wf (m.writeList a bs) := by
  induction bs generalizing m a with
  | nil => exact hm
  | cons b bs ih =>
    simp only [List.length_cons] at h
    exact ih (Memory.wf_write hm (by omega) b) (by omega)

/-- Reading after bytes were stored at increasing addresses. -/
theorem Memory.read_writeList {m : Memory} (hm : m.wf) {a : Nat} {bs : List Byte}
    (h : a + bs.length ≤ Config.memSize) (b : Nat) :
    (m.writeList a bs).read b = if a ≤ b ∧ b < a + bs.length then bs.getD (b - a) 0 else m.read b := by
  induction bs generalizing m a with
  | nil => simp [Memory.writeList]
  | cons v bs ih =>
    simp only [List.length_cons] at h
    rw [Memory.writeList, ih (Memory.wf_write hm (by omega) v) (by omega), Memory.read_write hm]
    by_cases hb : b = a
    · subst hb; simp
    · by_cases hr : a ≤ b ∧ b < a + (v :: bs).length
      · have h1 : a + 1 ≤ b ∧ b < a + 1 + bs.length := by simp only [List.length_cons] at hr; omega
        have h2 : b - a = b - (a + 1) + 1 := by omega
        rw [if_pos h1, if_pos hr, h2, List.getD_cons_succ]
      · have h1 : ¬(a + 1 ≤ b ∧ b < a + 1 + bs.length) := by simp only [List.length_cons] at hr; omega
        rw [if_neg h1, if_neg hr, if_neg hb]

/-- Placing a byte keeps the canonical form, wherever it falls. -/
theorem Memory.wf_place {m : Memory} (hm : m.wf) (a : Nat) (b : Byte) : Memory.wf (m.place a b) := by
  unfold Memory.place
  split_ifs with h
  · exact Memory.wf_write hm h b
  · exact hm

/-- The empty list is canonical. -/
theorem Memory.wf_nil : Memory.wf [] := ⟨List.Pairwise.nil, fun _ h => absurd h List.not_mem_nil⟩

/-- Memory after reset is canonical. -/
theorem State.wf_reset_mem : State.reset.mem.wf := Memory.wf_nil

/-- Memory after a full reset is canonical, whatever the small font. -/
theorem Memory.wf_reset (font : Vector Byte 80) : (Memory.reset font).wf := Memory.wf_writeList Memory.wf_nil (by simp [Config.memSize])

/-- Reading after a full reset. -/
theorem Memory.read_reset (font : Vector Byte 80) (a : Nat) :
    (Memory.reset font).read a = if h : a < 80 then font[a] else resetByte a := by
  rw [Memory.reset, Memory.read_writeList Memory.wf_nil (by simp [Config.memSize])]
  by_cases h : a < 80
  · simp [h, List.getD_eq_getElem?_getD]
  · simp [h, Memory.read]

/-- With the default small font nothing is listed. -/
@[simp] theorem Memory.reset_default : Memory.reset Config.fontSmall = [] := by decide

end Sys2Proof.Machine
end

