-- ==== Sys2Proof/Laws/State.lean ====
section
/-!
SUPPORT. Beside State: for each update and each field, what the field is after the update; and reading a register after writing
one (10_state.md R20).
-/

namespace Sys2Proof.Machine

/-! ## State.setV -/

@[simp] theorem State.setV_v (s : State) (r : Reg) (b : Byte) :
    (s.setV r b).v = s.v.set r.toNat b r.isLt := rfl

@[simp] theorem State.setV_i (s : State) (r : Reg) (b : Byte) :
    (s.setV r b).i = s.i := rfl

@[simp] theorem State.setV_pc (s : State) (r : Reg) (b : Byte) :
    (s.setV r b).pc = s.pc := rfl

@[simp] theorem State.setV_stack (s : State) (r : Reg) (b : Byte) :
    (s.setV r b).stack = s.stack := rfl

@[simp] theorem State.setV_dt (s : State) (r : Reg) (b : Byte) :
    (s.setV r b).dt = s.dt := rfl

@[simp] theorem State.setV_st (s : State) (r : Reg) (b : Byte) :
    (s.setV r b).st = s.st := rfl

@[simp] theorem State.setV_dtLast (s : State) (r : Reg) (b : Byte) :
    (s.setV r b).dtLast = s.dtLast := rfl

@[simp] theorem State.setV_stLast (s : State) (r : Reg) (b : Byte) :
    (s.setV r b).stLast = s.stLast := rfl

@[simp] theorem State.setV_mem (s : State) (r : Reg) (b : Byte) :
    (s.setV r b).mem = s.mem := rfl

@[simp] theorem State.setV_res (s : State) (r : Reg) (b : Byte) :
    (s.setV r b).res = s.res := rfl

@[simp] theorem State.setV_fb (s : State) (r : Reg) (b : Byte) :
    (s.setV r b).fb = s.fb := rfl

@[simp] theorem State.setV_keys (s : State) (r : Reg) (b : Byte) :
    (s.setV r b).keys = s.keys := rfl

@[simp] theorem State.setV_lastKey (s : State) (r : Reg) (b : Byte) :
    (s.setV r b).lastKey = s.lastKey := rfl

@[simp] theorem State.setV_pressed (s : State) (r : Reg) (b : Byte) :
    (s.setV r b).pressed = s.pressed := rfl

@[simp] theorem State.setV_run (s : State) (r : Reg) (b : Byte) :
    (s.setV r b).run = s.run := rfl

@[simp] theorem State.setV_wait (s : State) (r : Reg) (b : Byte) :
    (s.setV r b).wait = s.wait := rfl

@[simp] theorem State.setV_fault (s : State) (r : Reg) (b : Byte) :
    (s.setV r b).fault = s.fault := rfl

@[simp] theorem State.setV_params (s : State) (r : Reg) (b : Byte) :
    (s.setV r b).params = s.params := rfl

@[simp] theorem State.setV_tickCount (s : State) (r : Reg) (b : Byte) :
    (s.setV r b).tickCount = s.tickCount := rfl

@[simp] theorem State.setV_rngCount (s : State) (r : Reg) (b : Byte) :
    (s.setV r b).rngCount = s.rngCount := rfl

@[simp] theorem State.setV_diag (s : State) (r : Reg) (b : Byte) :
    (s.setV r b).diag = s.diag := rfl

@[simp] theorem State.setV_schedule (s : State) (r : Reg) (b : Byte) :
    (s.setV r b).schedule = s.schedule := rfl

/-! ## State.setI -/

@[simp] theorem State.setI_v (s : State) (a : Word) :
    (s.setI a).v = s.v := rfl

@[simp] theorem State.setI_i (s : State) (a : Word) :
    (s.setI a).i = a := rfl

@[simp] theorem State.setI_pc (s : State) (a : Word) :
    (s.setI a).pc = s.pc := rfl

@[simp] theorem State.setI_stack (s : State) (a : Word) :
    (s.setI a).stack = s.stack := rfl

@[simp] theorem State.setI_dt (s : State) (a : Word) :
    (s.setI a).dt = s.dt := rfl

@[simp] theorem State.setI_st (s : State) (a : Word) :
    (s.setI a).st = s.st := rfl

@[simp] theorem State.setI_dtLast (s : State) (a : Word) :
    (s.setI a).dtLast = s.dtLast := rfl

@[simp] theorem State.setI_stLast (s : State) (a : Word) :
    (s.setI a).stLast = s.stLast := rfl

@[simp] theorem State.setI_mem (s : State) (a : Word) :
    (s.setI a).mem = s.mem := rfl

@[simp] theorem State.setI_res (s : State) (a : Word) :
    (s.setI a).res = s.res := rfl

@[simp] theorem State.setI_fb (s : State) (a : Word) :
    (s.setI a).fb = s.fb := rfl

@[simp] theorem State.setI_keys (s : State) (a : Word) :
    (s.setI a).keys = s.keys := rfl

@[simp] theorem State.setI_lastKey (s : State) (a : Word) :
    (s.setI a).lastKey = s.lastKey := rfl

@[simp] theorem State.setI_pressed (s : State) (a : Word) :
    (s.setI a).pressed = s.pressed := rfl

@[simp] theorem State.setI_run (s : State) (a : Word) :
    (s.setI a).run = s.run := rfl

@[simp] theorem State.setI_wait (s : State) (a : Word) :
    (s.setI a).wait = s.wait := rfl

@[simp] theorem State.setI_fault (s : State) (a : Word) :
    (s.setI a).fault = s.fault := rfl

@[simp] theorem State.setI_params (s : State) (a : Word) :
    (s.setI a).params = s.params := rfl

@[simp] theorem State.setI_tickCount (s : State) (a : Word) :
    (s.setI a).tickCount = s.tickCount := rfl

@[simp] theorem State.setI_rngCount (s : State) (a : Word) :
    (s.setI a).rngCount = s.rngCount := rfl

@[simp] theorem State.setI_diag (s : State) (a : Word) :
    (s.setI a).diag = s.diag := rfl

@[simp] theorem State.setI_schedule (s : State) (a : Word) :
    (s.setI a).schedule = s.schedule := rfl

/-! ## State.setPc -/

@[simp] theorem State.setPc_v (s : State) (a : Word) :
    (s.setPc a).v = s.v := rfl

@[simp] theorem State.setPc_i (s : State) (a : Word) :
    (s.setPc a).i = s.i := rfl

@[simp] theorem State.setPc_pc (s : State) (a : Word) :
    (s.setPc a).pc = a := rfl

@[simp] theorem State.setPc_stack (s : State) (a : Word) :
    (s.setPc a).stack = s.stack := rfl

@[simp] theorem State.setPc_dt (s : State) (a : Word) :
    (s.setPc a).dt = s.dt := rfl

@[simp] theorem State.setPc_st (s : State) (a : Word) :
    (s.setPc a).st = s.st := rfl

@[simp] theorem State.setPc_dtLast (s : State) (a : Word) :
    (s.setPc a).dtLast = s.dtLast := rfl

@[simp] theorem State.setPc_stLast (s : State) (a : Word) :
    (s.setPc a).stLast = s.stLast := rfl

@[simp] theorem State.setPc_mem (s : State) (a : Word) :
    (s.setPc a).mem = s.mem := rfl

@[simp] theorem State.setPc_res (s : State) (a : Word) :
    (s.setPc a).res = s.res := rfl

@[simp] theorem State.setPc_fb (s : State) (a : Word) :
    (s.setPc a).fb = s.fb := rfl

@[simp] theorem State.setPc_keys (s : State) (a : Word) :
    (s.setPc a).keys = s.keys := rfl

@[simp] theorem State.setPc_lastKey (s : State) (a : Word) :
    (s.setPc a).lastKey = s.lastKey := rfl

@[simp] theorem State.setPc_pressed (s : State) (a : Word) :
    (s.setPc a).pressed = s.pressed := rfl

@[simp] theorem State.setPc_run (s : State) (a : Word) :
    (s.setPc a).run = s.run := rfl

@[simp] theorem State.setPc_wait (s : State) (a : Word) :
    (s.setPc a).wait = s.wait := rfl

@[simp] theorem State.setPc_fault (s : State) (a : Word) :
    (s.setPc a).fault = s.fault := rfl

@[simp] theorem State.setPc_params (s : State) (a : Word) :
    (s.setPc a).params = s.params := rfl

@[simp] theorem State.setPc_tickCount (s : State) (a : Word) :
    (s.setPc a).tickCount = s.tickCount := rfl

@[simp] theorem State.setPc_rngCount (s : State) (a : Word) :
    (s.setPc a).rngCount = s.rngCount := rfl

@[simp] theorem State.setPc_diag (s : State) (a : Word) :
    (s.setPc a).diag = s.diag := rfl

@[simp] theorem State.setPc_schedule (s : State) (a : Word) :
    (s.setPc a).schedule = s.schedule := rfl

/-! ## State.setStack -/

@[simp] theorem State.setStack_v (s : State) (l : List Word) :
    (s.setStack l).v = s.v := rfl

@[simp] theorem State.setStack_i (s : State) (l : List Word) :
    (s.setStack l).i = s.i := rfl

@[simp] theorem State.setStack_pc (s : State) (l : List Word) :
    (s.setStack l).pc = s.pc := rfl

@[simp] theorem State.setStack_stack (s : State) (l : List Word) :
    (s.setStack l).stack = l := rfl

@[simp] theorem State.setStack_dt (s : State) (l : List Word) :
    (s.setStack l).dt = s.dt := rfl

@[simp] theorem State.setStack_st (s : State) (l : List Word) :
    (s.setStack l).st = s.st := rfl

@[simp] theorem State.setStack_dtLast (s : State) (l : List Word) :
    (s.setStack l).dtLast = s.dtLast := rfl

@[simp] theorem State.setStack_stLast (s : State) (l : List Word) :
    (s.setStack l).stLast = s.stLast := rfl

@[simp] theorem State.setStack_mem (s : State) (l : List Word) :
    (s.setStack l).mem = s.mem := rfl

@[simp] theorem State.setStack_res (s : State) (l : List Word) :
    (s.setStack l).res = s.res := rfl

@[simp] theorem State.setStack_fb (s : State) (l : List Word) :
    (s.setStack l).fb = s.fb := rfl

@[simp] theorem State.setStack_keys (s : State) (l : List Word) :
    (s.setStack l).keys = s.keys := rfl

@[simp] theorem State.setStack_lastKey (s : State) (l : List Word) :
    (s.setStack l).lastKey = s.lastKey := rfl

@[simp] theorem State.setStack_pressed (s : State) (l : List Word) :
    (s.setStack l).pressed = s.pressed := rfl

@[simp] theorem State.setStack_run (s : State) (l : List Word) :
    (s.setStack l).run = s.run := rfl

@[simp] theorem State.setStack_wait (s : State) (l : List Word) :
    (s.setStack l).wait = s.wait := rfl

@[simp] theorem State.setStack_fault (s : State) (l : List Word) :
    (s.setStack l).fault = s.fault := rfl

@[simp] theorem State.setStack_params (s : State) (l : List Word) :
    (s.setStack l).params = s.params := rfl

@[simp] theorem State.setStack_tickCount (s : State) (l : List Word) :
    (s.setStack l).tickCount = s.tickCount := rfl

@[simp] theorem State.setStack_rngCount (s : State) (l : List Word) :
    (s.setStack l).rngCount = s.rngCount := rfl

@[simp] theorem State.setStack_diag (s : State) (l : List Word) :
    (s.setStack l).diag = s.diag := rfl

@[simp] theorem State.setStack_schedule (s : State) (l : List Word) :
    (s.setStack l).schedule = s.schedule := rfl

/-! ## State.setDt -/

@[simp] theorem State.setDt_v (s : State) (b : Byte) :
    (s.setDt b).v = s.v := rfl

@[simp] theorem State.setDt_i (s : State) (b : Byte) :
    (s.setDt b).i = s.i := rfl

@[simp] theorem State.setDt_pc (s : State) (b : Byte) :
    (s.setDt b).pc = s.pc := rfl

@[simp] theorem State.setDt_stack (s : State) (b : Byte) :
    (s.setDt b).stack = s.stack := rfl

@[simp] theorem State.setDt_dt (s : State) (b : Byte) :
    (s.setDt b).dt = b := rfl

@[simp] theorem State.setDt_st (s : State) (b : Byte) :
    (s.setDt b).st = s.st := rfl

@[simp] theorem State.setDt_dtLast (s : State) (b : Byte) :
    (s.setDt b).dtLast = s.dtLast := rfl

@[simp] theorem State.setDt_stLast (s : State) (b : Byte) :
    (s.setDt b).stLast = s.stLast := rfl

@[simp] theorem State.setDt_mem (s : State) (b : Byte) :
    (s.setDt b).mem = s.mem := rfl

@[simp] theorem State.setDt_res (s : State) (b : Byte) :
    (s.setDt b).res = s.res := rfl

@[simp] theorem State.setDt_fb (s : State) (b : Byte) :
    (s.setDt b).fb = s.fb := rfl

@[simp] theorem State.setDt_keys (s : State) (b : Byte) :
    (s.setDt b).keys = s.keys := rfl

@[simp] theorem State.setDt_lastKey (s : State) (b : Byte) :
    (s.setDt b).lastKey = s.lastKey := rfl

@[simp] theorem State.setDt_pressed (s : State) (b : Byte) :
    (s.setDt b).pressed = s.pressed := rfl

@[simp] theorem State.setDt_run (s : State) (b : Byte) :
    (s.setDt b).run = s.run := rfl

@[simp] theorem State.setDt_wait (s : State) (b : Byte) :
    (s.setDt b).wait = s.wait := rfl

@[simp] theorem State.setDt_fault (s : State) (b : Byte) :
    (s.setDt b).fault = s.fault := rfl

@[simp] theorem State.setDt_params (s : State) (b : Byte) :
    (s.setDt b).params = s.params := rfl

@[simp] theorem State.setDt_tickCount (s : State) (b : Byte) :
    (s.setDt b).tickCount = s.tickCount := rfl

@[simp] theorem State.setDt_rngCount (s : State) (b : Byte) :
    (s.setDt b).rngCount = s.rngCount := rfl

@[simp] theorem State.setDt_diag (s : State) (b : Byte) :
    (s.setDt b).diag = s.diag := rfl

@[simp] theorem State.setDt_schedule (s : State) (b : Byte) :
    (s.setDt b).schedule = s.schedule := rfl

/-! ## State.setSt -/

@[simp] theorem State.setSt_v (s : State) (b : Byte) :
    (s.setSt b).v = s.v := rfl

@[simp] theorem State.setSt_i (s : State) (b : Byte) :
    (s.setSt b).i = s.i := rfl

@[simp] theorem State.setSt_pc (s : State) (b : Byte) :
    (s.setSt b).pc = s.pc := rfl

@[simp] theorem State.setSt_stack (s : State) (b : Byte) :
    (s.setSt b).stack = s.stack := rfl

@[simp] theorem State.setSt_dt (s : State) (b : Byte) :
    (s.setSt b).dt = s.dt := rfl

@[simp] theorem State.setSt_st (s : State) (b : Byte) :
    (s.setSt b).st = b := rfl

@[simp] theorem State.setSt_dtLast (s : State) (b : Byte) :
    (s.setSt b).dtLast = s.dtLast := rfl

@[simp] theorem State.setSt_stLast (s : State) (b : Byte) :
    (s.setSt b).stLast = s.stLast := rfl

@[simp] theorem State.setSt_mem (s : State) (b : Byte) :
    (s.setSt b).mem = s.mem := rfl

@[simp] theorem State.setSt_res (s : State) (b : Byte) :
    (s.setSt b).res = s.res := rfl

@[simp] theorem State.setSt_fb (s : State) (b : Byte) :
    (s.setSt b).fb = s.fb := rfl

@[simp] theorem State.setSt_keys (s : State) (b : Byte) :
    (s.setSt b).keys = s.keys := rfl

@[simp] theorem State.setSt_lastKey (s : State) (b : Byte) :
    (s.setSt b).lastKey = s.lastKey := rfl

@[simp] theorem State.setSt_pressed (s : State) (b : Byte) :
    (s.setSt b).pressed = s.pressed := rfl

@[simp] theorem State.setSt_run (s : State) (b : Byte) :
    (s.setSt b).run = s.run := rfl

@[simp] theorem State.setSt_wait (s : State) (b : Byte) :
    (s.setSt b).wait = s.wait := rfl

@[simp] theorem State.setSt_fault (s : State) (b : Byte) :
    (s.setSt b).fault = s.fault := rfl

@[simp] theorem State.setSt_params (s : State) (b : Byte) :
    (s.setSt b).params = s.params := rfl

@[simp] theorem State.setSt_tickCount (s : State) (b : Byte) :
    (s.setSt b).tickCount = s.tickCount := rfl

@[simp] theorem State.setSt_rngCount (s : State) (b : Byte) :
    (s.setSt b).rngCount = s.rngCount := rfl

@[simp] theorem State.setSt_diag (s : State) (b : Byte) :
    (s.setSt b).diag = s.diag := rfl

@[simp] theorem State.setSt_schedule (s : State) (b : Byte) :
    (s.setSt b).schedule = s.schedule := rfl

/-! ## State.setMem -/

@[simp] theorem State.setMem_v (s : State) (m : Memory) :
    (s.setMem m).v = s.v := rfl

@[simp] theorem State.setMem_i (s : State) (m : Memory) :
    (s.setMem m).i = s.i := rfl

@[simp] theorem State.setMem_pc (s : State) (m : Memory) :
    (s.setMem m).pc = s.pc := rfl

@[simp] theorem State.setMem_stack (s : State) (m : Memory) :
    (s.setMem m).stack = s.stack := rfl

@[simp] theorem State.setMem_dt (s : State) (m : Memory) :
    (s.setMem m).dt = s.dt := rfl

@[simp] theorem State.setMem_st (s : State) (m : Memory) :
    (s.setMem m).st = s.st := rfl

@[simp] theorem State.setMem_dtLast (s : State) (m : Memory) :
    (s.setMem m).dtLast = s.dtLast := rfl

@[simp] theorem State.setMem_stLast (s : State) (m : Memory) :
    (s.setMem m).stLast = s.stLast := rfl

@[simp] theorem State.setMem_mem (s : State) (m : Memory) :
    (s.setMem m).mem = m := rfl

@[simp] theorem State.setMem_res (s : State) (m : Memory) :
    (s.setMem m).res = s.res := rfl

@[simp] theorem State.setMem_fb (s : State) (m : Memory) :
    (s.setMem m).fb = s.fb := rfl

@[simp] theorem State.setMem_keys (s : State) (m : Memory) :
    (s.setMem m).keys = s.keys := rfl

@[simp] theorem State.setMem_lastKey (s : State) (m : Memory) :
    (s.setMem m).lastKey = s.lastKey := rfl

@[simp] theorem State.setMem_pressed (s : State) (m : Memory) :
    (s.setMem m).pressed = s.pressed := rfl

@[simp] theorem State.setMem_run (s : State) (m : Memory) :
    (s.setMem m).run = s.run := rfl

@[simp] theorem State.setMem_wait (s : State) (m : Memory) :
    (s.setMem m).wait = s.wait := rfl

@[simp] theorem State.setMem_fault (s : State) (m : Memory) :
    (s.setMem m).fault = s.fault := rfl

@[simp] theorem State.setMem_params (s : State) (m : Memory) :
    (s.setMem m).params = s.params := rfl

@[simp] theorem State.setMem_tickCount (s : State) (m : Memory) :
    (s.setMem m).tickCount = s.tickCount := rfl

@[simp] theorem State.setMem_rngCount (s : State) (m : Memory) :
    (s.setMem m).rngCount = s.rngCount := rfl

@[simp] theorem State.setMem_diag (s : State) (m : Memory) :
    (s.setMem m).diag = s.diag := rfl

@[simp] theorem State.setMem_schedule (s : State) (m : Memory) :
    (s.setMem m).schedule = s.schedule := rfl

/-! ## State.setFb -/

@[simp] theorem State.setFb_v (s : State) (g : Grid) :
    (s.setFb g).v = s.v := rfl

@[simp] theorem State.setFb_i (s : State) (g : Grid) :
    (s.setFb g).i = s.i := rfl

@[simp] theorem State.setFb_pc (s : State) (g : Grid) :
    (s.setFb g).pc = s.pc := rfl

@[simp] theorem State.setFb_stack (s : State) (g : Grid) :
    (s.setFb g).stack = s.stack := rfl

@[simp] theorem State.setFb_dt (s : State) (g : Grid) :
    (s.setFb g).dt = s.dt := rfl

@[simp] theorem State.setFb_st (s : State) (g : Grid) :
    (s.setFb g).st = s.st := rfl

@[simp] theorem State.setFb_dtLast (s : State) (g : Grid) :
    (s.setFb g).dtLast = s.dtLast := rfl

@[simp] theorem State.setFb_stLast (s : State) (g : Grid) :
    (s.setFb g).stLast = s.stLast := rfl

@[simp] theorem State.setFb_mem (s : State) (g : Grid) :
    (s.setFb g).mem = s.mem := rfl

@[simp] theorem State.setFb_res (s : State) (g : Grid) :
    (s.setFb g).res = s.res := rfl

@[simp] theorem State.setFb_fb (s : State) (g : Grid) :
    (s.setFb g).fb = g := rfl

@[simp] theorem State.setFb_keys (s : State) (g : Grid) :
    (s.setFb g).keys = s.keys := rfl

@[simp] theorem State.setFb_lastKey (s : State) (g : Grid) :
    (s.setFb g).lastKey = s.lastKey := rfl

@[simp] theorem State.setFb_pressed (s : State) (g : Grid) :
    (s.setFb g).pressed = s.pressed := rfl

@[simp] theorem State.setFb_run (s : State) (g : Grid) :
    (s.setFb g).run = s.run := rfl

@[simp] theorem State.setFb_wait (s : State) (g : Grid) :
    (s.setFb g).wait = s.wait := rfl

@[simp] theorem State.setFb_fault (s : State) (g : Grid) :
    (s.setFb g).fault = s.fault := rfl

@[simp] theorem State.setFb_params (s : State) (g : Grid) :
    (s.setFb g).params = s.params := rfl

@[simp] theorem State.setFb_tickCount (s : State) (g : Grid) :
    (s.setFb g).tickCount = s.tickCount := rfl

@[simp] theorem State.setFb_rngCount (s : State) (g : Grid) :
    (s.setFb g).rngCount = s.rngCount := rfl

@[simp] theorem State.setFb_diag (s : State) (g : Grid) :
    (s.setFb g).diag = s.diag := rfl

@[simp] theorem State.setFb_schedule (s : State) (g : Grid) :
    (s.setFb g).schedule = s.schedule := rfl

/-! ## State.setResolution -/

@[simp] theorem State.setResolution_v (s : State) (r : Resolution) :
    (s.setResolution r).v = s.v := rfl

@[simp] theorem State.setResolution_i (s : State) (r : Resolution) :
    (s.setResolution r).i = s.i := rfl

@[simp] theorem State.setResolution_pc (s : State) (r : Resolution) :
    (s.setResolution r).pc = s.pc := rfl

@[simp] theorem State.setResolution_stack (s : State) (r : Resolution) :
    (s.setResolution r).stack = s.stack := rfl

@[simp] theorem State.setResolution_dt (s : State) (r : Resolution) :
    (s.setResolution r).dt = s.dt := rfl

@[simp] theorem State.setResolution_st (s : State) (r : Resolution) :
    (s.setResolution r).st = s.st := rfl

@[simp] theorem State.setResolution_dtLast (s : State) (r : Resolution) :
    (s.setResolution r).dtLast = s.dtLast := rfl

@[simp] theorem State.setResolution_stLast (s : State) (r : Resolution) :
    (s.setResolution r).stLast = s.stLast := rfl

@[simp] theorem State.setResolution_mem (s : State) (r : Resolution) :
    (s.setResolution r).mem = s.mem := rfl

@[simp] theorem State.setResolution_res (s : State) (r : Resolution) :
    (s.setResolution r).res = r := rfl

@[simp] theorem State.setResolution_fb (s : State) (r : Resolution) :
    (s.setResolution r).fb = Grid.blank r.width r.height := rfl

@[simp] theorem State.setResolution_keys (s : State) (r : Resolution) :
    (s.setResolution r).keys = s.keys := rfl

@[simp] theorem State.setResolution_lastKey (s : State) (r : Resolution) :
    (s.setResolution r).lastKey = s.lastKey := rfl

@[simp] theorem State.setResolution_pressed (s : State) (r : Resolution) :
    (s.setResolution r).pressed = s.pressed := rfl

@[simp] theorem State.setResolution_run (s : State) (r : Resolution) :
    (s.setResolution r).run = s.run := rfl

@[simp] theorem State.setResolution_wait (s : State) (r : Resolution) :
    (s.setResolution r).wait = s.wait := rfl

@[simp] theorem State.setResolution_fault (s : State) (r : Resolution) :
    (s.setResolution r).fault = s.fault := rfl

@[simp] theorem State.setResolution_params (s : State) (r : Resolution) :
    (s.setResolution r).params = s.params := rfl

@[simp] theorem State.setResolution_tickCount (s : State) (r : Resolution) :
    (s.setResolution r).tickCount = s.tickCount := rfl

@[simp] theorem State.setResolution_rngCount (s : State) (r : Resolution) :
    (s.setResolution r).rngCount = s.rngCount := rfl

@[simp] theorem State.setResolution_diag (s : State) (r : Resolution) :
    (s.setResolution r).diag = s.diag := rfl

@[simp] theorem State.setResolution_schedule (s : State) (r : Resolution) :
    (s.setResolution r).schedule = s.schedule := rfl

/-! ## State.raise -/

@[simp] theorem State.raise_v (s : State) (e : FatalError) (w : Option Word) :
    (s.raise e w).v = s.v := rfl

@[simp] theorem State.raise_i (s : State) (e : FatalError) (w : Option Word) :
    (s.raise e w).i = s.i := rfl

@[simp] theorem State.raise_pc (s : State) (e : FatalError) (w : Option Word) :
    (s.raise e w).pc = s.pc := rfl

@[simp] theorem State.raise_stack (s : State) (e : FatalError) (w : Option Word) :
    (s.raise e w).stack = s.stack := rfl

@[simp] theorem State.raise_dt (s : State) (e : FatalError) (w : Option Word) :
    (s.raise e w).dt = s.dt := rfl

@[simp] theorem State.raise_st (s : State) (e : FatalError) (w : Option Word) :
    (s.raise e w).st = s.st := rfl

@[simp] theorem State.raise_dtLast (s : State) (e : FatalError) (w : Option Word) :
    (s.raise e w).dtLast = s.dtLast := rfl

@[simp] theorem State.raise_stLast (s : State) (e : FatalError) (w : Option Word) :
    (s.raise e w).stLast = s.stLast := rfl

@[simp] theorem State.raise_mem (s : State) (e : FatalError) (w : Option Word) :
    (s.raise e w).mem = s.mem := rfl

@[simp] theorem State.raise_res (s : State) (e : FatalError) (w : Option Word) :
    (s.raise e w).res = s.res := rfl

@[simp] theorem State.raise_fb (s : State) (e : FatalError) (w : Option Word) :
    (s.raise e w).fb = s.fb := rfl

@[simp] theorem State.raise_keys (s : State) (e : FatalError) (w : Option Word) :
    (s.raise e w).keys = s.keys := rfl

@[simp] theorem State.raise_lastKey (s : State) (e : FatalError) (w : Option Word) :
    (s.raise e w).lastKey = s.lastKey := rfl

@[simp] theorem State.raise_pressed (s : State) (e : FatalError) (w : Option Word) :
    (s.raise e w).pressed = s.pressed := rfl

@[simp] theorem State.raise_run (s : State) (e : FatalError) (w : Option Word) :
    (s.raise e w).run = .faulted := rfl

@[simp] theorem State.raise_wait (s : State) (e : FatalError) (w : Option Word) :
    (s.raise e w).wait = s.wait := rfl

@[simp] theorem State.raise_fault (s : State) (e : FatalError) (w : Option Word) :
    (s.raise e w).fault = some ⟨e, s.pc, w⟩ := rfl

@[simp] theorem State.raise_params (s : State) (e : FatalError) (w : Option Word) :
    (s.raise e w).params = s.params := rfl

@[simp] theorem State.raise_tickCount (s : State) (e : FatalError) (w : Option Word) :
    (s.raise e w).tickCount = s.tickCount := rfl

@[simp] theorem State.raise_rngCount (s : State) (e : FatalError) (w : Option Word) :
    (s.raise e w).rngCount = s.rngCount := rfl

@[simp] theorem State.raise_diag (s : State) (e : FatalError) (w : Option Word) :
    (s.raise e w).diag = s.diag := rfl

@[simp] theorem State.raise_schedule (s : State) (e : FatalError) (w : Option Word) :
    (s.raise e w).schedule = s.schedule := rfl

/-! ## State.jump -/

@[simp] theorem State.jump_v (s : State) (a : Word) :
    (s.jump a).v = s.v := rfl

@[simp] theorem State.jump_i (s : State) (a : Word) :
    (s.jump a).i = s.i := rfl

@[simp] theorem State.jump_pc (s : State) (a : Word) :
    (s.jump a).pc = a - 2 := rfl

@[simp] theorem State.jump_stack (s : State) (a : Word) :
    (s.jump a).stack = s.stack := rfl

@[simp] theorem State.jump_dt (s : State) (a : Word) :
    (s.jump a).dt = s.dt := rfl

@[simp] theorem State.jump_st (s : State) (a : Word) :
    (s.jump a).st = s.st := rfl

@[simp] theorem State.jump_dtLast (s : State) (a : Word) :
    (s.jump a).dtLast = s.dtLast := rfl

@[simp] theorem State.jump_stLast (s : State) (a : Word) :
    (s.jump a).stLast = s.stLast := rfl

@[simp] theorem State.jump_mem (s : State) (a : Word) :
    (s.jump a).mem = s.mem := rfl

@[simp] theorem State.jump_res (s : State) (a : Word) :
    (s.jump a).res = s.res := rfl

@[simp] theorem State.jump_fb (s : State) (a : Word) :
    (s.jump a).fb = s.fb := rfl

@[simp] theorem State.jump_keys (s : State) (a : Word) :
    (s.jump a).keys = s.keys := rfl

@[simp] theorem State.jump_lastKey (s : State) (a : Word) :
    (s.jump a).lastKey = s.lastKey := rfl

@[simp] theorem State.jump_pressed (s : State) (a : Word) :
    (s.jump a).pressed = s.pressed := rfl

@[simp] theorem State.jump_run (s : State) (a : Word) :
    (s.jump a).run = s.run := rfl

@[simp] theorem State.jump_wait (s : State) (a : Word) :
    (s.jump a).wait = s.wait := rfl

@[simp] theorem State.jump_fault (s : State) (a : Word) :
    (s.jump a).fault = s.fault := rfl

@[simp] theorem State.jump_params (s : State) (a : Word) :
    (s.jump a).params = s.params := rfl

@[simp] theorem State.jump_tickCount (s : State) (a : Word) :
    (s.jump a).tickCount = s.tickCount := rfl

@[simp] theorem State.jump_rngCount (s : State) (a : Word) :
    (s.jump a).rngCount = s.rngCount := rfl

@[simp] theorem State.jump_diag (s : State) (a : Word) :
    (s.jump a).diag = s.diag := rfl

@[simp] theorem State.jump_schedule (s : State) (a : Word) :
    (s.jump a).schedule = s.schedule := rfl

/-! ## State.advance -/

@[simp] theorem State.advance_v (s : State) :
    s.advance.v = s.v := rfl

@[simp] theorem State.advance_i (s : State) :
    s.advance.i = s.i := rfl

@[simp] theorem State.advance_pc (s : State) :
    s.advance.pc = s.pc + 2 := rfl

@[simp] theorem State.advance_stack (s : State) :
    s.advance.stack = s.stack := rfl

@[simp] theorem State.advance_dt (s : State) :
    s.advance.dt = s.dt := rfl

@[simp] theorem State.advance_st (s : State) :
    s.advance.st = s.st := rfl

@[simp] theorem State.advance_dtLast (s : State) :
    s.advance.dtLast = s.dtLast := rfl

@[simp] theorem State.advance_stLast (s : State) :
    s.advance.stLast = s.stLast := rfl

@[simp] theorem State.advance_mem (s : State) :
    s.advance.mem = s.mem := rfl

@[simp] theorem State.advance_res (s : State) :
    s.advance.res = s.res := rfl

@[simp] theorem State.advance_fb (s : State) :
    s.advance.fb = s.fb := rfl

@[simp] theorem State.advance_keys (s : State) :
    s.advance.keys = s.keys := rfl

@[simp] theorem State.advance_lastKey (s : State) :
    s.advance.lastKey = s.lastKey := rfl

@[simp] theorem State.advance_pressed (s : State) :
    s.advance.pressed = s.pressed := rfl

@[simp] theorem State.advance_run (s : State) :
    s.advance.run = s.run := rfl

@[simp] theorem State.advance_wait (s : State) :
    s.advance.wait = s.wait := rfl

@[simp] theorem State.advance_fault (s : State) :
    s.advance.fault = s.fault := rfl

@[simp] theorem State.advance_params (s : State) :
    s.advance.params = s.params := rfl

@[simp] theorem State.advance_tickCount (s : State) :
    s.advance.tickCount = s.tickCount := rfl

@[simp] theorem State.advance_rngCount (s : State) :
    s.advance.rngCount = s.rngCount := rfl

@[simp] theorem State.advance_diag (s : State) :
    s.advance.diag = s.diag := rfl

@[simp] theorem State.advance_schedule (s : State) :
    s.advance.schedule = s.schedule := rfl

/-! ## State.logUnknown -/

@[simp] theorem State.logUnknown_v (s : State) (w : Word) :
    (s.logUnknown w).v = s.v := rfl

@[simp] theorem State.logUnknown_i (s : State) (w : Word) :
    (s.logUnknown w).i = s.i := rfl

@[simp] theorem State.logUnknown_pc (s : State) (w : Word) :
    (s.logUnknown w).pc = s.pc := rfl

@[simp] theorem State.logUnknown_stack (s : State) (w : Word) :
    (s.logUnknown w).stack = s.stack := rfl

@[simp] theorem State.logUnknown_dt (s : State) (w : Word) :
    (s.logUnknown w).dt = s.dt := rfl

@[simp] theorem State.logUnknown_st (s : State) (w : Word) :
    (s.logUnknown w).st = s.st := rfl

@[simp] theorem State.logUnknown_dtLast (s : State) (w : Word) :
    (s.logUnknown w).dtLast = s.dtLast := rfl

@[simp] theorem State.logUnknown_stLast (s : State) (w : Word) :
    (s.logUnknown w).stLast = s.stLast := rfl

@[simp] theorem State.logUnknown_mem (s : State) (w : Word) :
    (s.logUnknown w).mem = s.mem := rfl

@[simp] theorem State.logUnknown_res (s : State) (w : Word) :
    (s.logUnknown w).res = s.res := rfl

@[simp] theorem State.logUnknown_fb (s : State) (w : Word) :
    (s.logUnknown w).fb = s.fb := rfl

@[simp] theorem State.logUnknown_keys (s : State) (w : Word) :
    (s.logUnknown w).keys = s.keys := rfl

@[simp] theorem State.logUnknown_lastKey (s : State) (w : Word) :
    (s.logUnknown w).lastKey = s.lastKey := rfl

@[simp] theorem State.logUnknown_pressed (s : State) (w : Word) :
    (s.logUnknown w).pressed = s.pressed := rfl

@[simp] theorem State.logUnknown_run (s : State) (w : Word) :
    (s.logUnknown w).run = s.run := rfl

@[simp] theorem State.logUnknown_wait (s : State) (w : Word) :
    (s.logUnknown w).wait = s.wait := rfl

@[simp] theorem State.logUnknown_fault (s : State) (w : Word) :
    (s.logUnknown w).fault = s.fault := rfl

@[simp] theorem State.logUnknown_params (s : State) (w : Word) :
    (s.logUnknown w).params = s.params := rfl

@[simp] theorem State.logUnknown_tickCount (s : State) (w : Word) :
    (s.logUnknown w).tickCount = s.tickCount := rfl

@[simp] theorem State.logUnknown_rngCount (s : State) (w : Word) :
    (s.logUnknown w).rngCount = s.rngCount := rfl

@[simp] theorem State.logUnknown_diag (s : State) (w : Word) :
    (s.logUnknown w).diag = s.diag ++ [.unknown w ((s.pc.toNat : Int) - (Config.origin : Int))] := rfl

@[simp] theorem State.logUnknown_schedule (s : State) (w : Word) :
    (s.logUnknown w).schedule = s.schedule := rfl

/-! ## State.clearScreen -/

@[simp] theorem State.clearScreen_v (s : State) :
    s.clearScreen.v = s.v := rfl

@[simp] theorem State.clearScreen_i (s : State) :
    s.clearScreen.i = s.i := rfl

@[simp] theorem State.clearScreen_pc (s : State) :
    s.clearScreen.pc = s.pc := rfl

@[simp] theorem State.clearScreen_stack (s : State) :
    s.clearScreen.stack = s.stack := rfl

@[simp] theorem State.clearScreen_dt (s : State) :
    s.clearScreen.dt = s.dt := rfl

@[simp] theorem State.clearScreen_st (s : State) :
    s.clearScreen.st = s.st := rfl

@[simp] theorem State.clearScreen_dtLast (s : State) :
    s.clearScreen.dtLast = s.dtLast := rfl

@[simp] theorem State.clearScreen_stLast (s : State) :
    s.clearScreen.stLast = s.stLast := rfl

@[simp] theorem State.clearScreen_mem (s : State) :
    s.clearScreen.mem = s.mem := rfl

@[simp] theorem State.clearScreen_res (s : State) :
    s.clearScreen.res = s.res := rfl

@[simp] theorem State.clearScreen_fb (s : State) :
    s.clearScreen.fb = Grid.blank s.width s.height := rfl

@[simp] theorem State.clearScreen_keys (s : State) :
    s.clearScreen.keys = s.keys := rfl

@[simp] theorem State.clearScreen_lastKey (s : State) :
    s.clearScreen.lastKey = s.lastKey := rfl

@[simp] theorem State.clearScreen_pressed (s : State) :
    s.clearScreen.pressed = s.pressed := rfl

@[simp] theorem State.clearScreen_run (s : State) :
    s.clearScreen.run = s.run := rfl

@[simp] theorem State.clearScreen_wait (s : State) :
    s.clearScreen.wait = s.wait := rfl

@[simp] theorem State.clearScreen_fault (s : State) :
    s.clearScreen.fault = s.fault := rfl

@[simp] theorem State.clearScreen_params (s : State) :
    s.clearScreen.params = s.params := rfl

@[simp] theorem State.clearScreen_tickCount (s : State) :
    s.clearScreen.tickCount = s.tickCount := rfl

@[simp] theorem State.clearScreen_rngCount (s : State) :
    s.clearScreen.rngCount = s.rngCount := rfl

@[simp] theorem State.clearScreen_diag (s : State) :
    s.clearScreen.diag = s.diag := rfl

@[simp] theorem State.clearScreen_schedule (s : State) :
    s.clearScreen.schedule = s.schedule := rfl

/-! ## State.dequeue -/

@[simp] theorem State.dequeue_v (s : State) :
    s.dequeue.v = s.v := rfl

@[simp] theorem State.dequeue_i (s : State) :
    s.dequeue.i = s.i := rfl

@[simp] theorem State.dequeue_pc (s : State) :
    s.dequeue.pc = s.pc := rfl

@[simp] theorem State.dequeue_stack (s : State) :
    s.dequeue.stack = s.stack := rfl

@[simp] theorem State.dequeue_dt (s : State) :
    s.dequeue.dt = s.dt := rfl

@[simp] theorem State.dequeue_st (s : State) :
    s.dequeue.st = s.st := rfl

@[simp] theorem State.dequeue_dtLast (s : State) :
    s.dequeue.dtLast = s.dtLast := rfl

@[simp] theorem State.dequeue_stLast (s : State) :
    s.dequeue.stLast = s.stLast := rfl

@[simp] theorem State.dequeue_mem (s : State) :
    s.dequeue.mem = s.mem := rfl

@[simp] theorem State.dequeue_res (s : State) :
    s.dequeue.res = s.res := rfl

@[simp] theorem State.dequeue_fb (s : State) :
    s.dequeue.fb = s.fb := rfl

@[simp] theorem State.dequeue_keys (s : State) :
    s.dequeue.keys = s.keys := rfl

@[simp] theorem State.dequeue_lastKey (s : State) :
    s.dequeue.lastKey = s.lastKey := rfl

@[simp] theorem State.dequeue_pressed (s : State) :
    s.dequeue.pressed = s.pressed := rfl

@[simp] theorem State.dequeue_run (s : State) :
    s.dequeue.run = s.run := rfl

@[simp] theorem State.dequeue_wait (s : State) :
    s.dequeue.wait = s.wait := rfl

@[simp] theorem State.dequeue_fault (s : State) :
    s.dequeue.fault = s.fault := rfl

@[simp] theorem State.dequeue_params (s : State) :
    s.dequeue.params = s.params := rfl

@[simp] theorem State.dequeue_tickCount (s : State) :
    s.dequeue.tickCount = s.tickCount := rfl

@[simp] theorem State.dequeue_rngCount (s : State) :
    s.dequeue.rngCount = s.rngCount := rfl

@[simp] theorem State.dequeue_diag (s : State) :
    s.dequeue.diag = s.diag := rfl

@[simp] theorem State.dequeue_schedule (s : State) :
    s.dequeue.schedule = s.schedule.tail := rfl

/-- With no input to come nothing is taken. -/
theorem State.dequeue_of_nil {s : State} (h : s.schedule = []) : s.dequeue = s := by
  unfold State.dequeue
  rw [h]
  exact congrArg (fun l => { s with schedule := l }) h.symm

/-- With an input to come it is removed. -/
theorem State.dequeue_of_cons {s : State} {e : Event} {rest : List Event} (h : s.schedule = e :: rest) :
    s.dequeue = { s with schedule := rest } := by
  unfold State.dequeue
  rw [h]
  rfl

/-! ## State.fullReset -/

@[simp] theorem State.fullReset_v (s : State) :
    s.fullReset.v = State.reset.v := rfl

@[simp] theorem State.fullReset_i (s : State) :
    s.fullReset.i = 0 := rfl

@[simp] theorem State.fullReset_pc (s : State) :
    s.fullReset.pc = 0x200 := rfl

@[simp] theorem State.fullReset_stack (s : State) :
    s.fullReset.stack = [] := rfl

@[simp] theorem State.fullReset_dt (s : State) :
    s.fullReset.dt = 0 := rfl

@[simp] theorem State.fullReset_st (s : State) :
    s.fullReset.st = 0 := rfl

@[simp] theorem State.fullReset_dtLast (s : State) :
    s.fullReset.dtLast = s.now := rfl

@[simp] theorem State.fullReset_stLast (s : State) :
    s.fullReset.stLast = s.now := rfl

@[simp] theorem State.fullReset_mem (s : State) :
    s.fullReset.mem = Memory.reset s.params.fontSmall := rfl

@[simp] theorem State.fullReset_res (s : State) :
    s.fullReset.res = .low := rfl

@[simp] theorem State.fullReset_fb (s : State) :
    s.fullReset.fb = State.reset.fb := rfl

@[simp] theorem State.fullReset_keys (s : State) :
    s.fullReset.keys = State.reset.keys := rfl

@[simp] theorem State.fullReset_lastKey (s : State) :
    s.fullReset.lastKey = 0 := rfl

@[simp] theorem State.fullReset_pressed (s : State) :
    s.fullReset.pressed = false := rfl

@[simp] theorem State.fullReset_run (s : State) :
    s.fullReset.run = .idle := rfl

@[simp] theorem State.fullReset_wait (s : State) :
    s.fullReset.wait = none := rfl

@[simp] theorem State.fullReset_fault (s : State) :
    s.fullReset.fault = none := rfl

@[simp] theorem State.fullReset_params (s : State) :
    s.fullReset.params = s.params := rfl

@[simp] theorem State.fullReset_tickCount (s : State) :
    s.fullReset.tickCount = s.tickCount + 1 := rfl

@[simp] theorem State.fullReset_rngCount (s : State) :
    s.fullReset.rngCount = s.rngCount := rfl

@[simp] theorem State.fullReset_diag (s : State) :
    s.fullReset.diag = s.diag := rfl

@[simp] theorem State.fullReset_schedule (s : State) :
    s.fullReset.schedule = s.schedule := rfl

/-! ## Registers -/

/-- Reading a register after writing one (R20). -/
@[simp] theorem State.getV_setV (s : State) (r q : Reg) (b : Byte) :
    (s.setV r b).getV q = if q = r then b else s.getV q := by
  unfold State.getV State.setV
  rw [Vector.getElem_set]
  by_cases h : q = r
  · simp [h]
  · have : r.toNat ≠ q.toNat := fun e => h (BitVec.eq_of_toNat_eq e.symm)
    simp [h, this]

/-- Two register files that read the same at every index are the same. -/
theorem State.v_ext {s t : State} (h : ∀ r, s.getV r = t.getV r) : s.v = t.v := by
  apply Vector.ext
  intro k hk
  simpa [State.getV, BitVec.toNat_ofNat, Nat.mod_eq_of_lt hk] using h (BitVec.ofNat 4 k)

/-- A register reads the same in two states with the same register file. -/
theorem State.getV_congr {s t : State} (h : t.v = s.v) (r : Reg) : t.getV r = s.getV r := by
  simp [State.getV, h]

@[simp] theorem State.getV_dequeue (s : State) (q : Reg) :
    s.dequeue.getV q = s.getV q := rfl

@[simp] theorem State.getV_setI (s : State) (a : Word) (q : Reg) :
    (s.setI a).getV q = s.getV q := rfl

@[simp] theorem State.getV_setPc (s : State) (a : Word) (q : Reg) :
    (s.setPc a).getV q = s.getV q := rfl

@[simp] theorem State.getV_setStack (s : State) (l : List Word) (q : Reg) :
    (s.setStack l).getV q = s.getV q := rfl

@[simp] theorem State.getV_setDt (s : State) (b : Byte) (q : Reg) :
    (s.setDt b).getV q = s.getV q := rfl

@[simp] theorem State.getV_setSt (s : State) (b : Byte) (q : Reg) :
    (s.setSt b).getV q = s.getV q := rfl

@[simp] theorem State.getV_setMem (s : State) (m : Memory) (q : Reg) :
    (s.setMem m).getV q = s.getV q := rfl

@[simp] theorem State.getV_setFb (s : State) (g : Grid) (q : Reg) :
    (s.setFb g).getV q = s.getV q := rfl

@[simp] theorem State.getV_setResolution (s : State) (r : Resolution) (q : Reg) :
    (s.setResolution r).getV q = s.getV q := rfl

@[simp] theorem State.getV_raise (s : State) (e : FatalError) (w : Option Word) (q : Reg) :
    (s.raise e w).getV q = s.getV q := rfl

@[simp] theorem State.getV_jump (s : State) (a : Word) (q : Reg) :
    (s.jump a).getV q = s.getV q := rfl

@[simp] theorem State.getV_advance (s : State) (q : Reg) :
    s.advance.getV q = s.getV q := rfl

@[simp] theorem State.getV_logUnknown (s : State) (w : Word) (q : Reg) :
    (s.logUnknown w).getV q = s.getV q := rfl

@[simp] theorem State.getV_clearScreen (s : State) (q : Reg) :
    s.clearScreen.getV q = s.getV q := rfl

end Sys2Proof.Machine
end

