-- ==== Sys2Proof/Laws/Ops.lean ====
section
/-!
SUPPORT. What each shared operation can do, said once (20_memory.md R61; 10_state.md R28; 40_cycle.md R127; 43_alu.md R211;
44_index_memory.md R249 to R251; 41_display.md R161, R162; 60_exceptions.md R301).
-/

namespace Sys2Proof.Machine

/-! ## Raising an error -/

theorem State.raiseIn_eq (s : State) (e : FatalError) (ins : Instr) :
    s.raiseIn e ins = { s with run := .faulted, fault := some ⟨e, s.pc, some (encode ins)⟩ } := rfl

@[simp] theorem State.getV_raiseIn (s : State) (e : FatalError) (ins : Instr) (r : Reg) :
    (s.raiseIn e ins).getV r = s.getV r := rfl

/-! ## Memory accesses -/

theorem State.memRead_of_lt {s : State} {k : AccessKind} {a : Nat} (h : a < Config.memSize) :
    s.memRead k a = .ok (s.mem.read a) := if_pos h

theorem State.memRead_of_ge {s : State} {k : AccessKind} {a : Nat} (h : Config.memSize ≤ a) :
    s.memRead k a = .error (.bounds a k) := if_neg (not_lt.2 h)

theorem State.memWrite_of_lt {s : State} {a : Nat} {b : Byte} (h : a < Config.memSize) :
    s.memWrite a b = .ok (s.setMem (s.mem.write a b)) := if_pos h

theorem State.memWrite_of_ge {s : State} {a : Nat} {b : Byte} (h : Config.memSize ≤ a) :
    s.memWrite a b = .error (.bounds a .write) := if_neg (not_lt.2 h)

/-! ## Block stores -/

/-- A block store that fits stores every byte. -/
theorem storeBytes_fits {ins : Instr} {a : Nat} {bs : List Byte} {s : State} (h : a + bs.length ≤ Config.memSize) :
    storeBytes ins a bs s = s.setMem (s.mem.writeList a bs) := by
  induction bs generalizing a s with
  | nil => rfl
  | cons b bs ih =>
    simp only [List.length_cons] at h
    rw [storeBytes, State.memWrite_of_lt (by omega)]
    exact ih (by omega)

/-- A block store that does not fit stores the bytes that do and raises BoundsError at the first address outside memory. -/
theorem storeBytes_overruns {ins : Instr} {a : Nat} {bs : List Byte} {s : State} (hne : bs ≠ [])
    (h : Config.memSize < a + bs.length) :
    storeBytes ins a bs s =
      (s.setMem (s.mem.writeList a (bs.take (Config.memSize - a)))).raiseIn (.bounds (max a Config.memSize) .write) ins := by
  induction bs generalizing a s with
  | nil => exact absurd rfl hne
  | cons b bs ih =>
    by_cases ha : a < Config.memSize
    · simp only [List.length_cons] at h
      have hbs : bs ≠ [] := by rintro rfl; simp only [List.length_nil] at h; omega
      have htake : (b :: bs).take (Config.memSize - a) = b :: bs.take (Config.memSize - (a + 1)) := by
        rw [show Config.memSize - a = Config.memSize - (a + 1) + 1 by omega, List.take_succ_cons]
      rw [storeBytes, State.memWrite_of_lt ha, htake]
      refine (ih hbs (by omega)).trans ?_
      rw [Nat.max_eq_right (show a + 1 ≤ Config.memSize by omega), Nat.max_eq_right ha.le]
      rfl
    · rw [storeBytes, State.memWrite_of_ge (not_lt.1 ha), Nat.max_eq_left (not_lt.1 ha),
        show Config.memSize - a = 0 by omega]
      rfl

/-! ## Block loads -/

/-- The registers of the list loaded from `a` on, with no bounds check. -/
def loadAll : Nat → List Reg → State → State
  | _, [], s => s
  | a, r :: rs, s => loadAll (a + 1) rs (s.setV r (s.mem.read a))

theorem loadAll_eq (a : Nat) (rs : List Reg) (s : State) : loadAll a rs s = { s with v := (loadAll a rs s).v } := by
  induction rs generalizing a s with
  | nil => rfl
  | cons r rs ih => exact (ih _ _).trans rfl

/-- Each register of the list holds the byte at its place; every other register is unchanged. -/
theorem getV_loadAll {a : Nat} {rs : List Reg} {s : State} (hnd : rs.Nodup) (r : Reg) :
    (loadAll a rs s).getV r = if r ∈ rs then s.mem.read (a + rs.idxOf r) else s.getV r := by
  induction rs generalizing a s with
  | nil => rfl
  | cons q rs ih =>
    have hq := List.nodup_cons.1 hnd
    rw [loadAll, ih hq.2]
    by_cases hr : r = q
    · subst hr; simp [hq.1]
    · simp only [State.setV_mem, State.getV_setV, List.mem_cons, hr, false_or, if_false, List.idxOf_cons_ne _ (Ne.symm hr)]
      split_ifs
      · congr 1; omega
      · rfl

/-- A block load that fits loads every register. -/
theorem loadRegs_fits {ins : Instr} {a : Nat} {rs : List Reg} {s : State} (h : a + rs.length ≤ Config.memSize) :
    loadRegs ins a rs s = loadAll a rs s := by
  induction rs generalizing a s with
  | nil => rfl
  | cons r rs ih =>
    simp only [List.length_cons] at h
    rw [loadRegs, State.memRead_of_lt (by omega)]
    exact ih (by omega)

/-- A block load that does not fit loads the registers that do and raises BoundsError at the first address outside memory. -/
theorem loadRegs_overruns {ins : Instr} {a : Nat} {rs : List Reg} {s : State} (hne : rs ≠ [])
    (h : Config.memSize < a + rs.length) :
    loadRegs ins a rs s =
      (loadAll a (rs.take (Config.memSize - a)) s).raiseIn (.bounds (max a Config.memSize) .read) ins := by
  induction rs generalizing a s with
  | nil => exact absurd rfl hne
  | cons r rs ih =>
    by_cases ha : a < Config.memSize
    · simp only [List.length_cons] at h
      have hrs : rs ≠ [] := by rintro rfl; simp only [List.length_nil] at h; omega
      have htake : (r :: rs).take (Config.memSize - a) = r :: rs.take (Config.memSize - (a + 1)) := by
        rw [show Config.memSize - a = Config.memSize - (a + 1) + 1 by omega, List.take_succ_cons]
      rw [loadRegs, State.memRead_of_lt ha, htake]
      refine (ih hrs (by omega)).trans ?_
      rw [Nat.max_eq_right (show a + 1 ≤ Config.memSize by omega), Nat.max_eq_right ha.le]
      rfl
    · rw [loadRegs, State.memRead_of_ge (not_lt.1 ha), Nat.max_eq_left (not_lt.1 ha),
        show Config.memSize - a = 0 by omega]
      rfl

/-! ## The registers of a block -/

@[simp] theorem length_blockRegs (x : Reg) : (blockRegs x).length = x.toNat + 1 := by simp [blockRegs]

theorem getElem_blockRegs {x : Reg} {k : Nat} (h : k < (blockRegs x).length) : (blockRegs x)[k] = regOfNat k := by
  simp [blockRegs]

theorem toNat_regOfNat {k : Nat} (h : k < 16) : (regOfNat k).toNat = k := by
  simp [regOfNat, BitVec.toNat_ofNat, Nat.mod_eq_of_lt h]

@[simp] theorem regOfNat_toNat (r : Reg) : regOfNat r.toNat = r := by simp [regOfNat]

theorem nodup_blockRegs (x : Reg) : (blockRegs x).Nodup := by
  refine List.Nodup.map_on ?_ List.nodup_range
  intro j hj k hk h
  have hx := x.isLt
  simp only [List.mem_range] at hj hk
  have := congrArg BitVec.toNat h
  rwa [toNat_regOfNat (by omega), toNat_regOfNat (by omega)] at this

/-- V0..Vx is in the block of x. -/
theorem mem_blockRegs {x r : Reg} : r ∈ blockRegs x ↔ r.toNat ≤ x.toNat := by
  have hx := x.isLt
  simp only [blockRegs, List.mem_map, List.mem_range]
  constructor
  · rintro ⟨k, hk, rfl⟩; rw [toNat_regOfNat (by omega)]; omega
  · intro h; exact ⟨r.toNat, by omega, by simp⟩

/-- Register r stands at place r of its block. -/
theorem idxOf_blockRegs {x r : Reg} (h : r.toNat ≤ x.toNat) : (blockRegs x).idxOf r = r.toNat := by
  have hlt : r.toNat < (blockRegs x).length := by simp; omega
  have := (nodup_blockRegs x).idxOf_getElem r.toNat hlt
  rwa [getElem_blockRegs hlt, regOfNat_toNat] at this

/-! ## Drawing -/

/-- The grid and the collision after drawing the parts, with no bounds check. -/
def drawAll (s : State) : List SpritePart → Grid → Bool → Grid × Bool
  | [], g, col => (g, col)
  | p :: ps, g, col =>
    let drawn := Grid.drawRow s.width s.height s.params.spriteEdge p.x p.y (s.mem.read p.addr) g
    drawAll s ps drawn.1 (col || drawn.2)

/-- A sprite whose bytes are all in memory is drawn whole, and VF takes the collision. -/
theorem drawParts_fits {ins : Instr} {ps : List SpritePart} {col : Bool} {s : State}
    (h : ∀ p ∈ ps, p.addr < Config.memSize) :
    drawParts ins ps col s =
      (s.setFb (drawAll s ps s.fb col).1).setV Reg.flag (collisionFlag (drawAll s ps s.fb col).2) := by
  induction ps generalizing col s with
  | nil => rfl
  | cons p ps ih =>
    rw [drawParts, State.memRead_of_lt (h p (by simp))]
    refine (ih fun q hq => h q (by simp [hq])).trans ?_
    have hs : ∀ g qs g' c, drawAll (s.setFb g) qs g' c = drawAll s qs g' c := by
      intro g qs
      induction qs with
      | nil => intros; rfl
      | cons q qs ihq => intro g' c; exact ihq _ _
    simp only [drawAll, State.setFb_fb, hs]
    rfl

/-- A sprite that runs out of memory is drawn up to there; then BoundsError is raised and VF is not written. -/
theorem drawParts_overruns {ins : Instr} {ps qs : List SpritePart} {p : SpritePart} {col : Bool} {s : State}
    (h : ∀ q ∈ ps, q.addr < Config.memSize) (hp : Config.memSize ≤ p.addr) :
    drawParts ins (ps ++ p :: qs) col s = (s.setFb (drawAll s ps s.fb col).1).raiseIn (.bounds p.addr .read) ins := by
  induction ps generalizing col s with
  | nil => rw [List.nil_append, drawParts, State.memRead_of_ge hp]; rfl
  | cons q ps ih =>
    rw [List.cons_append, drawParts, State.memRead_of_lt (h q (by simp))]
    refine (ih fun r hr => h r (by simp [hr])).trans ?_
    have hs : ∀ g qs g' c, drawAll (s.setFb g) qs g' c = drawAll s qs g' c := by
      intro g qs
      induction qs with
      | nil => intros; rfl
      | cons q qs ihq => intro g' c; exact ihq _ _
    simp only [drawAll, State.setFb_fb, hs]
    rfl

/-- Whether a part flips the pixel (x, y). -/
def partHits (s : State) (p : SpritePart) (x y : Nat) : Bool :=
  rowHits s.width s.height s.params.spriteEdge p.x p.y (s.mem.read p.addr) x y

theorem State.width_ge (s : State) : 64 ≤ s.width := by unfold State.width; cases s.res <;> decide

theorem State.height_ge (s : State) : 32 ≤ s.height := by unfold State.height; cases s.res <;> decide

theorem sized_drawAll {s : State} {ps : List SpritePart} {g : Grid} {col : Bool} (hg : g.sized s.width s.height) :
    (drawAll s ps g col).1.sized s.width s.height := by
  induction ps generalizing g col with
  | nil => exact hg
  | cons p ps ih => exact ih (Grid.sized_drawRow hg)

/-- Where no two parts flip the same pixel, a sprite flips exactly the pixels its parts flip. -/
theorem pixel_drawAll {s : State} {ps : List SpritePart} {g : Grid} {col : Bool} (hg : g.sized s.width s.height)
    (hd : ps.Pairwise fun p q => ∀ x y, ¬(partHits s p x y = true ∧ partHits s q x y = true)) (x y : Nat) :
    (drawAll s ps g col).1.pixel x y = (g.pixel x y ^^ ps.any fun p => partHits s p x y) := by
  induction ps generalizing g col with
  | nil => simp [drawAll]
  | cons p ps ih =>
    have hp := List.pairwise_cons.1 hd
    have hw := s.width_ge
    have hh := s.height_ge
    rw [drawAll, ih (Grid.sized_drawRow hg) hp.2, Grid.pixel_drawRow hg (by omega) (by omega), List.any_cons]
    by_cases hx : partHits s p x y = true
    · have : (ps.any fun q => partHits s q x y) = false := by
        rw [List.any_eq_false]; intro q hq hqx; exact hp.1 q hq x y ⟨hx, hqx⟩
      rw [this, hx]
      unfold partHits at hx
      simp [hx]
    · have hx' := hx
      unfold partHits at hx'
      simp only [Bool.not_eq_true] at hx hx'
      rw [hx, hx']; simp

/-- Where no two parts flip the same pixel, a sprite collides exactly when it turns a lit pixel off. -/
theorem collision_drawAll {s : State} {ps : List SpritePart} {g : Grid} {col : Bool} (hg : g.sized s.width s.height)
    (hd : ps.Pairwise fun p q => ∀ x y, ¬(partHits s p x y = true ∧ partHits s q x y = true)) :
    (drawAll s ps g col).2 = true ↔
      col = true ∨ ∃ x y, g.pixel x y = true ∧ (ps.any fun p => partHits s p x y) = true := by
  induction ps generalizing g col with
  | nil => simp [drawAll]
  | cons p ps ih =>
    have hp := List.pairwise_cons.1 hd
    have hw := s.width_ge
    have hh := s.height_ge
    rw [drawAll, ih (Grid.sized_drawRow hg) hp.2, Bool.or_eq_true,
      Grid.collision_drawRow hg (by omega) (by omega)]
    simp only [List.any_cons, Bool.or_eq_true, Grid.pixel_drawRow hg (show 8 ≤ s.width by omega) (show 0 < s.height by omega)]
    constructor
    · rintro ((h | ⟨x, y, h1, h2⟩) | ⟨x, y, h1, h2⟩)
      · exact .inl h
      · exact .inr ⟨x, y, h1, .inl h2⟩
      · obtain ⟨q, hq, hqx⟩ := List.any_eq_true.1 h2
        have hn : rowHits s.width s.height s.params.spriteEdge p.x p.y (s.mem.read p.addr) x y = false := by
          simpa [partHits] using fun hpx => hp.1 q hq x y ⟨hpx, hqx⟩
        exact .inr ⟨x, y, by simpa [hn] using h1, .inr h2⟩
    · rintro (h | ⟨x, y, h1, h2 | h2⟩)
      · exact .inl (.inl h)
      · exact .inl (.inr ⟨x, y, h1, h2⟩)
      · obtain ⟨q, hq, hqx⟩ := List.any_eq_true.1 h2
        have hn : rowHits s.width s.height s.params.spriteEdge p.x p.y (s.mem.read p.addr) x y = false := by
          simpa [partHits] using fun hpx => hp.1 q hq x y ⟨hpx, hqx⟩
        exact .inr ⟨x, y, by simpa [hn] using h1, h2⟩

/-! ## Flags and results -/

/-- The result statement's reads, by VF_ALIAS. -/
theorem flagThenResult_eq (s : State) (x : Reg) (flag : Byte) (f : State → Byte) :
    flagThenResult s x flag f =
      (s.setV Reg.flag flag).setV x (f (if s.params.vfAlias = .sequential then s.setV Reg.flag flag else s)) := by
  unfold flagThenResult
  cases s.params.vfAlias <;> rfl

/-! ## Ticks -/

/-- A tick changes the two timers, their timestamps and the count of ticks, and nothing else. -/
theorem State.tickTimers_eq (s : State) :
    s.tickTimers = { s with dt := s.tickTimers.dt, st := s.tickTimers.st, dtLast := s.tickTimers.dtLast,
                            stLast := s.tickTimers.stLast, tickCount := s.tickCount + 1 } := rfl

/-- DT after step 4. -/
theorem State.tickTimers_dt (s : State) :
    s.tickTimers.dt = if s.dt ≠ 0 ∧ s.delayDue = true then s.dt - 1 else s.dt := by
  show tickedValue s.delayDue s.dt = _
  simp [tickedValue]

/-- ST after step 4. -/
theorem State.tickTimers_st (s : State) :
    s.tickTimers.st = if s.st ≠ 0 ∧ s.soundDue = true then s.st - 1 else s.st := by
  show tickedValue s.soundDue s.st = _
  simp [tickedValue]

/-- DT.last after step 4. -/
theorem State.tickTimers_dtLast (s : State) :
    s.tickTimers.dtLast = if s.dt ≠ 0 ∧ s.delayDue = true then s.stamp s.dtLast else s.dtLast := by
  show s.tickedLast s.delayDue s.dt s.dtLast = _
  simp [State.tickedLast]

/-- ST.last after step 4. -/
theorem State.tickTimers_stLast (s : State) :
    s.tickTimers.stLast = if s.st ≠ 0 ∧ s.soundDue = true then s.stamp s.stLast else s.stLast := by
  show s.tickedLast s.soundDue s.st s.stLast = _
  simp [State.tickedLast]

/-! ## The call stack -/

theorem State.pop_nil {s : State} (h : s.stack = []) : s.pop = .error .stackUnderflow := by simp [State.pop, h]

theorem State.pop_cons {s : State} {a : Word} {l : List Word} (h : s.stack = a :: l) :
    s.pop = .ok (a, s.setStack l) := by simp [State.pop, h]

theorem State.push_full {s : State} (h : s.params.stackDepth ≤ s.stack.length) (a : Word) :
    s.push a = .error (.stackOverflow s.stack.length) := if_pos h

theorem State.push_room {s : State} (h : s.stack.length < s.params.stackDepth) (a : Word) :
    s.push a = .ok (s.setStack (a :: s.stack)) := if_neg (not_le.2 h)

end Sys2Proof.Machine
end

