-- ==== Sys2Proof/Laws/Sprites.lean ====
section
/-!
SUPPORT. The parts of a sprite never flip the same pixel twice, so a sprite flips a pixel at most once (41_display.md R151, R161,
R162); and which pixels a part flips, as arithmetic.
-/

namespace Sys2Proof.Machine

/-- A column that is drawn is the bit's position modulo the width. -/
theorem spriteColumn_mod {w : Nat} {edge : SpriteEdge} {c a : Nat} (h : spriteColumn w edge c = some a) : a = c % w := by
  unfold spriteColumn at h
  split_ifs at h with hlt
  · simp only [Option.some.injEq] at h; subst h; exact (Nat.mod_eq_of_lt hlt).symm
  · cases edge <;> simp at h
    exact h.symm

/-- Where a row's hit lies. -/
theorem rowHits_place {w h : Nat} {edge : SpriteEdge} {x y : Nat} {b : Byte} {p q : Nat}
    (hit : rowHits w h edge x y b p q = true) : q = y % h ∧ ∃ k < 8, p = (x + k) % w := by
  simp only [rowHits, Bool.and_eq_true, decide_eq_true_eq, spriteHits, List.any_eq_true, beq_iff_eq] at hit
  obtain ⟨hq, k, hk, _, hc⟩ := hit
  refine ⟨hq, k, by simp at hk; omega, ?_⟩
  rw [spriteColumn_mod hc, Nat.mod_add_mod]

/-- Numbers less than m apart are different modulo m. -/
theorem add_mod_inj {m a j k : Nat} (hj : j < m) (hk : k < m) (h : (a + j) % m = (a + k) % m) : j = k := by
  have h' : j % m = k % m := Nat.ModEq.add_left_cancel' a h
  rwa [Nat.mod_eq_of_lt hj, Nat.mod_eq_of_lt hk] at h'

/-- Rows fewer than a grid's height apart share no pixel. -/
theorem rowHits_rows_apart {w h : Nat} {edge : SpriteEdge} {x x' y r r' : Nat} {b b' : Byte} {p q : Nat} (hr : r < h)
    (hr' : r' < h) (hne : r ≠ r') :
    ¬(rowHits w h edge x (y + r) b p q = true ∧ rowHits w h edge x' (y + r') b' p q = true) := fun ⟨h1, h2⟩ =>
  hne (add_mod_inj hr hr' ((rowHits_place h1).1.symm.trans (rowHits_place h2).1))

/-- The two halves of a 16-pixel row share no pixel. -/
theorem rowHits_halves_apart {w h : Nat} {edge : SpriteEdge} {x y : Nat} {b b' : Byte} {p q : Nat} (hw : 16 ≤ w) :
    ¬(rowHits w h edge x y b p q = true ∧ rowHits w h edge (x + 8) y b' p q = true) := by
  rintro ⟨h1, h2⟩
  obtain ⟨-, j, hj, hp⟩ := rowHits_place h1
  obtain ⟨-, k, hk, hp'⟩ := rowHits_place h2
  have := add_mod_inj (m := w) (a := x) (j := j) (k := 8 + k) (by omega) (by omega) (by rw [← hp, hp']; congr 1; omega)
  omega

/-- The parts of DXYN flip no pixel twice (R161). -/
theorem spriteParts8_apart (s : State) (i x y : Nat) {n : Nat} (hn : n ≤ 15) :
    (spriteParts8 i x y n).Pairwise fun p q => ∀ a b, ¬(partHits s p a b = true ∧ partHits s q a b = true) := by
  have hh := s.height_ge
  refine List.pairwise_map.2 (List.Pairwise.imp_of_mem ?_ List.pairwise_lt_range)
  intro r r' hr hr' hlt a b
  simp only [List.mem_range] at hr hr'
  exact rowHits_rows_apart (by omega) (by omega) hlt.ne

/-- The parts of DXY0 flip no pixel twice (R162). -/
theorem spriteParts16_apart (s : State) (i x y : Nat) :
    (spriteParts16 i x y).Pairwise fun p q => ∀ a b, ¬(partHits s p a b = true ∧ partHits s q a b = true) := by
  have hh := s.height_ge
  have hw := s.width_ge
  refine List.pairwise_flatMap.2 ⟨fun r _ => ?_, List.Pairwise.imp_of_mem ?_ List.pairwise_lt_range⟩
  · simp only [List.pairwise_cons, List.mem_singleton, forall_eq, List.not_mem_nil, false_implies, implies_true,
      List.Pairwise.nil, and_true]
    exact fun a b => rowHits_halves_apart (by omega)
  · intro r r' hr hr' hlt p hp q hq a b
    simp only [List.mem_range] at hr hr'
    simp only [List.mem_cons, List.not_mem_nil, or_false] at hp hq
    rcases hp with rfl | rfl <;> rcases hq with rfl | rfl <;>
      exact rowHits_rows_apart (by omega) (by omega) hlt.ne

end Sys2Proof.Machine
end

