-- ==== Sys2Proof/Laws/Exec.lean ====
section
/-!
SUPPORT. What step 3 and the rest of a cycle can touch at all, said once for every instruction (40_cycle.md R120 to R132).
-/

namespace Sys2Proof.Machine

/-! ## Shared operations: the fields they can touch -/

theorem storeBytes_touches (ins : Instr) (a : Nat) (bs : List Byte) (s : State) :
    storeBytes ins a bs s =
      { s with mem := (storeBytes ins a bs s).mem, run := (storeBytes ins a bs s).run,
               fault := (storeBytes ins a bs s).fault } := by
  induction bs generalizing a s with
  | nil => rfl
  | cons b bs ih =>
    unfold storeBytes State.memWrite
    split_ifs
    · exact (ih _ _).trans rfl
    · rfl

theorem loadRegs_touches (ins : Instr) (a : Nat) (rs : List Reg) (s : State) :
    loadRegs ins a rs s =
      { s with v := (loadRegs ins a rs s).v, run := (loadRegs ins a rs s).run,
               fault := (loadRegs ins a rs s).fault } := by
  induction rs generalizing a s with
  | nil => rfl
  | cons r rs ih =>
    unfold loadRegs State.memRead
    split_ifs
    · exact (ih _ _).trans rfl
    · rfl

theorem drawParts_touches (ins : Instr) (ps : List SpritePart) (col : Bool) (s : State) :
    drawParts ins ps col s =
      { s with v := (drawParts ins ps col s).v, fb := (drawParts ins ps col s).fb, run := (drawParts ins ps col s).run,
               fault := (drawParts ins ps col s).fault } := by
  induction ps generalizing col s with
  | nil => rfl
  | cons p ps ih =>
    unfold drawParts State.memRead
    split_ifs
    · exact (ih _ _).trans rfl
    · rfl

/-! ## Shared operations: what they keep -/

/-- A block store keeps memory canonical. -/
theorem wf_storeBytes {ins : Instr} {a : Nat} {bs : List Byte} {s : State} (h : s.mem.wf) :
    (storeBytes ins a bs s).mem.wf := by
  induction bs generalizing a s with
  | nil => exact h
  | cons b bs ih =>
    unfold storeBytes State.memWrite
    split_ifs with ha
    · exact ih (Memory.wf_write h ha b)
    · exact h

/-- Drawing keeps the grid's size. -/
theorem sized_drawParts {ins : Instr} {ps : List SpritePart} {col : Bool} {s : State} (h : ScreenSized s) :
    ScreenSized (drawParts ins ps col s) := by
  induction ps generalizing col s with
  | nil => exact h
  | cons p ps ih =>
    unfold drawParts State.memRead
    split_ifs
    · exact ih (Grid.sized_drawRow h)
    · exact h

/-- A state reached in step 3: as before but for a fault entry, which sets `run` and `fault` together. -/
def KeptOrFaulted (s t : State) : Prop :=
  (t.run = s.run ∧ t.fault = s.fault) ∨ (t.run = .faulted ∧ ∃ e w, t.fault = some ⟨e, s.pc, w⟩)

theorem keptOrFaulted_storeBytes (ins : Instr) (a : Nat) (bs : List Byte) (s : State) :
    KeptOrFaulted s (storeBytes ins a bs s) := by
  induction bs generalizing a s with
  | nil => exact .inl ⟨rfl, rfl⟩
  | cons b bs ih =>
    unfold storeBytes State.memWrite
    split_ifs
    · exact ih _ _
    · exact .inr ⟨rfl, _, _, rfl⟩

theorem keptOrFaulted_loadRegs (ins : Instr) (a : Nat) (rs : List Reg) (s : State) :
    KeptOrFaulted s (loadRegs ins a rs s) := by
  induction rs generalizing a s with
  | nil => exact .inl ⟨rfl, rfl⟩
  | cons r rs ih =>
    unfold loadRegs State.memRead
    split_ifs
    · exact ih _ _
    · exact .inr ⟨rfl, _, _, rfl⟩

theorem keptOrFaulted_drawParts (ins : Instr) (ps : List SpritePart) (col : Bool) (s : State) :
    KeptOrFaulted s (drawParts ins ps col s) := by
  induction ps generalizing col s with
  | nil => exact .inl ⟨rfl, rfl⟩
  | cons p ps ih =>
    unfold drawParts State.memRead
    split_ifs
    · exact ih _ _
    · exact .inr ⟨rfl, _, _, rfl⟩

/-! ## Every instruction -/

/-- The meaning of an instruction whose whole effect is one state. -/
theorem next_inj {s t : State} (h : (Host.Outcome.next s : Host.Outcome State Fault Refusal) = .next t) : s = t := by
  cases h; rfl

/-- What RET leaves: a fault entry on an empty stack, else the popped address as the target. -/
theorem execRet_eq (s : State) :
    execRet s = .next (match s.stack with
      | [] => s.raiseIn .stackUnderflow .ret
      | a :: l => (s.setStack l).jump a) := by
  unfold execRet State.pop
  cases s.stack <;> rfl

/-- What CALL leaves: a fault entry on a full stack, else pc + 2 pushed and NNN as the target. -/
theorem execCall_eq (nnn : Addr) (s : State) :
    execCall nnn s = .next (if s.params.stackDepth ≤ s.stack.length then
        s.raiseIn (.stackOverflow s.stack.length) (.call nnn)
      else (s.setStack ((s.pc + 2) :: s.stack)).jump (wordOfAddr nnn)) := by
  unfold execCall State.push
  split_ifs <;> rfl

/-- The key test fails only for an index of 16 or more under KEY_INDEX_POLICY = fault. -/
theorem keyIndex_eq (policy : KeyIndexPolicy) (v : Byte) :
    keyIndex policy v =
      if 16 ≤ v.toNat ∧ policy = .fault then .error (.keyIndex v) else .ok (BitVec.ofNat 4 v.toNat) := by
  unfold keyIndex
  cases policy <;> by_cases h : v.toNat < 16 <;> simp [h, Nat.not_le.2, not_lt.1]

/-- What SKP leaves. -/
theorem execSkp_eq (x : Reg) (s : State) :
    execSkp x s = .next (if 16 ≤ (s.getV x).toNat ∧ s.params.keyIndex = .fault then
        s.raiseIn (.keyIndex (s.getV x)) (.skp x)
      else s.skipIf (s.isDown (BitVec.ofNat 4 (s.getV x).toNat))) := by
  unfold execSkp
  rw [keyIndex_eq]
  split_ifs <;> rfl

/-- What SKNP leaves. -/
theorem execSknp_eq (x : Reg) (s : State) :
    execSknp x s = .next (if 16 ≤ (s.getV x).toNat ∧ s.params.keyIndex = .fault then
        s.raiseIn (.keyIndex (s.getV x)) (.sknp x)
      else s.skipIf (!s.isDown (BitVec.ofNat 4 (s.getV x).toNat))) := by
  unfold execSknp
  rw [keyIndex_eq]
  split_ifs <;> rfl

/-- A skip changes pc alone. -/
theorem State.skipIf_eq (s : State) (c : Bool) : s.skipIf c = s.setPc (if c then s.pc + 2 else s.pc) := by
  unfold State.skipIf
  cases c <;> rfl

/-- What step 3 of any instruction keeps: the fields no instruction touches, the canonical memory, the size of the grid, the bound of
the stack, and the run state but for a fault entry. -/
structure Step3 (s t : State) : Prop where
  /-- The input state but for `pressed`. -/
  keys : t.keys = s.keys
  /-- The last-key latch. -/
  lastKey : t.lastKey = s.lastKey
  /-- DT.last. -/
  dtLast : t.dtLast = s.dtLast
  /-- ST.last. -/
  stLast : t.stLast = s.stLast
  /-- The parameters. -/
  params : t.params = s.params
  /-- The draws of the timers. -/
  tickCount : t.tickCount = s.tickCount
  /-- The diagnostic sink. -/
  diag : t.diag = s.diag
  /-- The inputs to come. -/
  schedule : t.schedule = s.schedule
  /-- Memory stays canonical. -/
  mem_wf : s.mem.wf → t.mem.wf
  /-- The grid keeps the size of the resolution. -/
  screen : ScreenSized s → ScreenSized t
  /-- The stack stays within STACK_DEPTH. -/
  stack : s.stack.length ≤ s.params.stackDepth → t.stack.length ≤ t.params.stackDepth
  /-- The run state and the record change in a fault entry only. -/
  control : KeptOrFaulted s t

/-- A state that differs in registers, I, pc, timers, the random draw, `pressed` and the wait alone. -/
theorem step3_plain (s : State) (v : Vector Byte 16) (i pc : Word) (dt st : Byte) (n : Nat) (p : Bool) (w : Option Reg) :
    Step3 s { s with v := v, i := i, pc := pc, dt := dt, st := st, rngCount := n, pressed := p, wait := w } :=
  ⟨rfl, rfl, rfl, rfl, rfl, rfl, rfl, rfl, id, id, id, .inl ⟨rfl, rfl⟩⟩

/-- A fault entry. -/
theorem step3_raiseIn (s : State) (e : FatalError) (ins : Instr) : Step3 s (s.raiseIn e ins) :=
  ⟨rfl, rfl, rfl, rfl, rfl, rfl, rfl, rfl, id, id, id, .inr ⟨rfl, e, _, rfl⟩⟩

/-- A grid of the right size. -/
theorem step3_setFb (s : State) {g : Grid} (hg : g.sized s.width s.height) : Step3 s (s.setFb g) :=
  ⟨rfl, rfl, rfl, rfl, rfl, rfl, rfl, rfl, id, fun _ => hg, id, .inl ⟨rfl, rfl⟩⟩

/-- A resolution switch. -/
theorem step3_setResolution (s : State) (r : Resolution) : Step3 s (s.setResolution r) :=
  ⟨rfl, rfl, rfl, rfl, rfl, rfl, rfl, rfl, id, fun _ => Grid.sized_blank _ _, id, .inl ⟨rfl, rfl⟩⟩

/-- A skip. -/
theorem step3_skipIf (s : State) (c : Bool) : Step3 s (s.skipIf c) := by
  rw [State.skipIf_eq]; exact step3_plain s _ _ _ _ _ _ _ _

/-- A jump with a stack no deeper than STACK_DEPTH. -/
theorem step3_setStack_jump (s : State) {l : List Word} (a : Word)
    (h : s.stack.length ≤ s.params.stackDepth → l.length ≤ s.params.stackDepth) : Step3 s ((s.setStack l).jump a) :=
  ⟨rfl, rfl, rfl, rfl, rfl, rfl, rfl, rfl, id, id, h, .inl ⟨rfl, rfl⟩⟩

theorem step3_storeBytes (ins : Instr) (a : Nat) (bs : List Byte) (s : State) : Step3 s (storeBytes ins a bs s) := by
  have h := storeBytes_touches ins a bs s
  have hw := @wf_storeBytes ins a bs s
  have hc := keptOrFaulted_storeBytes ins a bs s
  generalize storeBytes ins a bs s = t at h hw hc
  rw [h]
  exact ⟨rfl, rfl, rfl, rfl, rfl, rfl, rfl, rfl, hw, id, id, hc⟩

theorem step3_loadRegs (ins : Instr) (a : Nat) (rs : List Reg) (s : State) : Step3 s (loadRegs ins a rs s) := by
  have h := loadRegs_touches ins a rs s
  have hc := keptOrFaulted_loadRegs ins a rs s
  generalize loadRegs ins a rs s = t at h hc
  rw [h]
  exact ⟨rfl, rfl, rfl, rfl, rfl, rfl, rfl, rfl, id, id, id, hc⟩

theorem step3_drawParts (ins : Instr) (ps : List SpritePart) (col : Bool) (s : State) :
    Step3 s (drawParts ins ps col s) := by
  have h := drawParts_touches ins ps col s
  have hz := @sized_drawParts ins ps col s
  have hc := keptOrFaulted_drawParts ins ps col s
  generalize drawParts ins ps col s = t at h hz hc
  rw [h] at hz ⊢
  exact ⟨rfl, rfl, rfl, rfl, rfl, rfl, rfl, rfl, id, hz, id, hc⟩

/-- Step 3 of every instruction: the one case analysis from which the invariants follow. -/
theorem exec_step3 {i : Instr} {s t : State} (h : exec i s = .next t) : Step3 s t := by
  cases i
  case cls => cases next_inj h; exact step3_setFb s (Grid.sized_blank _ _)
  case scd n => cases next_inj h; exact step3_setFb s (Grid.sized_scrollDown ..)
  case scr => cases next_inj h; exact step3_setFb s (Grid.sized_scrollRight ..)
  case scl => cases next_inj h; exact step3_setFb s (Grid.sized_scrollLeft ..)
  case low => cases next_inj h; exact step3_setResolution s _
  case high => cases next_inj h; exact step3_setResolution s _
  case ret =>
    rw [show exec .ret s = _ from execRet_eq s] at h; cases next_inj h
    cases hst : s.stack with
    | nil => exact step3_raiseIn s _ _
    | cons a l => exact step3_setStack_jump s a fun hs => by rw [hst, List.length_cons] at hs; omega
  case call nnn =>
    rw [show exec (.call nnn) s = _ from execCall_eq nnn s] at h; cases next_inj h
    split_ifs with hd
    · exact step3_raiseIn s _ _
    · exact step3_setStack_jump s _ fun _ => Nat.lt_of_not_le hd
  case skp x =>
    rw [show exec (.skp x) s = _ from execSkp_eq x s] at h; cases next_inj h
    split_ifs
    · exact step3_raiseIn s _ _
    · exact step3_skipIf s _
  case sknp x =>
    rw [show exec (.sknp x) s = _ from execSknp_eq x s] at h; cases next_inj h
    split_ifs
    · exact step3_raiseIn s _ _
    · exact step3_skipIf s _
  case drw x y n => cases next_inj h; exact step3_drawParts ..
  case drw16 x y => cases next_inj h; exact step3_drawParts ..
  case ldB x => cases next_inj h; exact step3_storeBytes ..
  case ldMemVx x => cases next_inj h; exact step3_storeBytes ..
  case ldVxMem x => cases next_inj h; exact step3_loadRegs ..
  case seImm x nn => cases next_inj h; exact step3_skipIf s _
  case sneImm x nn => cases next_inj h; exact step3_skipIf s _
  case seReg x y => cases next_inj h; exact step3_skipIf s _
  case sneReg x y => cases next_inj h; exact step3_skipIf s _
  all_goals cases next_inj h; exact step3_plain s _ _ _ _ _ _ _ _

/-! ## The rest of the cycle -/

/-- A fetch that may be made gives the word at pc, high byte first. -/
theorem fetch_of_fetchable {s : State} (h : Fetchable s) : fetch s = .ok (wordAtPc s) := by
  obtain ⟨h1, h2⟩ := h
  have hodd : (s.params.oddPc == .fault && s.pc.getLsbD 0) = false := by
    rw [Bool.and_eq_false_iff]
    by_cases hp : s.params.oddPc = .fault
    · right
      have := h1 hp
      simp [BitVec.getLsbD, Nat.testBit_zero, this]
    · left; simpa using hp
  have hword : wordOfBytes (s.mem.read s.pc.toNat) (s.mem.read (s.pc.toNat + 1)) = wordAtPc s := by
    apply BitVec.eq_of_toNat_eq
    have h0 := (s.mem.read s.pc.toNat).isLt
    have h1 := (s.mem.read (s.pc.toNat + 1)).isLt
    rw [toNat_wordOfBytes, wordAtPc, BitVec.toNat_ofNat, Nat.mod_eq_of_lt (by omega)]
  unfold fetch
  simp only [hodd, Bool.false_eq_true, if_false, State.memRead_of_lt (show s.pc.toNat < Config.memSize by omega),
    State.memRead_of_lt h2, hword]

/-- A fetchable cycle runs the word at pc. -/
theorem cycle_of_fetchable {s : State} (h : Fetchable s) : cycle s = runWord (wordAtPc s) s := by
  unfold cycle
  rw [fetch_of_fetchable h]

/-- When a CORE step is next, a step is the CORE's own, with its place in the schedule taken. -/
theorem step_of_coreNext {s : State} (h : CoreNext s) : step s = coreStep s.dequeue := by
  unfold step nextStep
  rcases h with h | h
  · rw [State.dequeue_of_nil h, h]
  · obtain ⟨rest, hr⟩ := List.head?_eq_some_iff.1 h
    rw [hr]
    rfl

/-- When a cycle is next, a step is a cycle. -/
theorem step_of_cycleNext {s : State} (h : CycleNext s) : step s = cycle s.dequeue := by
  obtain ⟨h1, h2, h3⟩ := h
  rw [step_of_coreNext h1]
  simp only [coreStep, State.dequeue_run, State.dequeue_wait, h2, h3]

/-- When a cycle is next and its fetch may be made, a step runs the word at pc. -/
theorem step_of_fetchable {s : State} (h : CycleNext s) (hf : Fetchable s) :
    step s = runWord (wordAtPc s) s.dequeue :=
  (step_of_cycleNext h).trans (cycle_of_fetchable (s := s.dequeue) hf)

/-- A cycle whose fetch fails enters Faulted with no word. -/
theorem cycle_of_fetch_error {s : State} {e : FatalError} (h : fetch s = .error e) : cycle s = .next (s.raise e none) := by
  unfold cycle
  rw [h]

/-- The states a host step is admitted in. -/
theorem State.steppable_iff (s : State) : s.steppable = true ↔ MayStep s := by simp [State.steppable, MayStep]

/-- stepOneCycle, where no wait is pending, is a cycle and then Paused. -/
theorem hostStep_stepOneCycle {s : State} (hs : MayStep s) (hw : s.wait = none) :
    hostStep .stepOneCycle s = pauseOutcome (cycle s) := by
  simp [hostStep, hostStepOneCycle, s.steppable_iff.2 hs, hw]

/-- executeRawInstruction, where no wait is pending, is steps 2 to 5 on the word and then Paused. -/
theorem hostStep_executeRaw {s : State} (hs : MayStep s) (hw : s.wait = none) (w : Word) :
    hostStep (.executeRaw w) s = pauseOutcome (runWord w s) := by
  simp [hostStep, hostExecuteRaw, s.steppable_iff.2 hs, hw]

/-- An instruction's outcome is always a next state of its own, so the rest of the cycle applies to it. -/
theorem finishCycle_next (s : State) : finishCycle (.next s) = .next s.afterExecute := rfl

end Sys2Proof.Machine
end

