-- ==== Sys2Proof/Laws/PerInstr.lean ====
section
/-!
SUPPORT. The per-instruction family RowOf: the word an instruction encodes to is one its own row of the opcode map admits
(30_encoding.md R93).
-/

set_option linter.unusedSimpArgs false

namespace Sys2Proof.Laws

/-! ## Rows, nibble by nibble -/

/-- A row admits a word exactly when every nibble agrees under the mask and the row's constraint holds. -/
theorem admits_wordXYN (r : OpcodeRow) (op x y n : Nibble) :
    r.admits (wordXYN op x y n) =
      (decide (op &&& fieldOp r.mask = fieldOp r.pat) && decide (x &&& fieldX r.mask = fieldX r.pat) &&
        decide (y &&& fieldY r.mask = fieldY r.pat) && decide (n &&& fieldN r.mask = fieldN r.pat) &&
        (!r.nNonzero || n != 0#4)) := by
  unfold OpcodeRow.admits
  rw [fieldN_wordXYN]
  congr 1
  rw [← wordXYN_fields r.mask, and_wordXYN, ← wordXYN_fields r.pat, Bool.eq_iff_iff]
  simp [wordXYN_inj, and_assoc]

/-- A word of family, X and NN as four nibbles. -/
theorem wordXNN_eq_wordXYN (op : Nibble) (x : Reg) (nn : Byte) :
    wordXNN op x nn = wordXYN op x (nn.extractLsb' 4 4) (nn.extractLsb' 0 4) := by
  apply BitVec.eq_of_toNat_eq
  rw [toNat_wordXNN, toNat_wordXYN]
  simp only [BitVec.extractLsb'_toNat, Nat.shiftRight_eq_div_pow]
  omega

/-- A word of family and NNN as four nibbles. -/
theorem wordNNN_eq_wordXYN (op : Nibble) (nnn : Addr) :
    wordNNN op nnn = wordXYN op (nnn.extractLsb' 8 4) (nnn.extractLsb' 4 4) (nnn.extractLsb' 0 4) := by
  apply BitVec.eq_of_toNat_eq
  rw [toNat_wordNNN, toNat_wordXYN]
  simp only [BitVec.extractLsb'_toNat, Nat.shiftRight_eq_div_pow]
  omega

/-- Masks of the nibbles a row keeps or ignores. -/
theorem and_F (x : Nibble) : x &&& 0xF#4 = x := BitVec.and_allOnes (x := x)

theorem and_0 (x : Nibble) : x &&& 0x0#4 = 0x0#4 := BitVec.and_zero

/-! ## The family -/

/-- The instruction's row is in the opcode map, and admits the instruction's word when the instruction is well formed. -/
def RowOf.Statement (i : Instr) : Prop :=
  ∃ row ∈ opcodeMap, row.mnemonic = i.rowMnemonic ∧ (i.wellFormed = true → row.admits (encode i) = true)

theorem RowOf.cls : RowOf.Statement (.cls) :=
  ⟨⟨"CLS", 0x00E0, 0xFFFF, false⟩, by decide, rfl, fun h => by
    decide⟩

theorem RowOf.ret : RowOf.Statement (.ret) :=
  ⟨⟨"RET", 0x00EE, 0xFFFF, false⟩, by decide, rfl, fun h => by
    decide⟩

theorem RowOf.scd (n : Nibble) : RowOf.Statement (.scd n) :=
  ⟨⟨"SCD_N", 0x00C0, 0xFFF0, false⟩, by decide, rfl, fun h => by
    simp_all [encode, wordXNN_eq_wordXYN, wordNNN_eq_wordXYN, admits_wordXYN, Instr.wellFormed,
      fieldOp, fieldX, fieldY, fieldN, and_F, and_0]⟩

theorem RowOf.scr : RowOf.Statement (.scr) :=
  ⟨⟨"SCR", 0x00FB, 0xFFFF, false⟩, by decide, rfl, fun h => by
    decide⟩

theorem RowOf.scl : RowOf.Statement (.scl) :=
  ⟨⟨"SCL", 0x00FC, 0xFFFF, false⟩, by decide, rfl, fun h => by
    decide⟩

theorem RowOf.low : RowOf.Statement (.low) :=
  ⟨⟨"LOW", 0x00FE, 0xFFFF, false⟩, by decide, rfl, fun h => by
    decide⟩

theorem RowOf.high : RowOf.Statement (.high) :=
  ⟨⟨"HIGH", 0x00FF, 0xFFFF, false⟩, by decide, rfl, fun h => by
    decide⟩

theorem RowOf.jp (nnn : Addr) : RowOf.Statement (.jp nnn) :=
  ⟨⟨"JP_NNN", 0x1000, 0xF000, false⟩, by decide, rfl, fun h => by
    simp_all [encode, wordXNN_eq_wordXYN, wordNNN_eq_wordXYN, admits_wordXYN, Instr.wellFormed,
      fieldOp, fieldX, fieldY, fieldN, and_F, and_0]⟩

theorem RowOf.call (nnn : Addr) : RowOf.Statement (.call nnn) :=
  ⟨⟨"CALL_NNN", 0x2000, 0xF000, false⟩, by decide, rfl, fun h => by
    simp_all [encode, wordXNN_eq_wordXYN, wordNNN_eq_wordXYN, admits_wordXYN, Instr.wellFormed,
      fieldOp, fieldX, fieldY, fieldN, and_F, and_0]⟩

theorem RowOf.seImm (x : Reg) (nn : Byte) : RowOf.Statement (.seImm x nn) :=
  ⟨⟨"SE_Vx__NN", 0x3000, 0xF000, false⟩, by decide, rfl, fun h => by
    simp_all [encode, wordXNN_eq_wordXYN, wordNNN_eq_wordXYN, admits_wordXYN, Instr.wellFormed,
      fieldOp, fieldX, fieldY, fieldN, and_F, and_0]⟩

theorem RowOf.sneImm (x : Reg) (nn : Byte) : RowOf.Statement (.sneImm x nn) :=
  ⟨⟨"SNE_Vx__NN", 0x4000, 0xF000, false⟩, by decide, rfl, fun h => by
    simp_all [encode, wordXNN_eq_wordXYN, wordNNN_eq_wordXYN, admits_wordXYN, Instr.wellFormed,
      fieldOp, fieldX, fieldY, fieldN, and_F, and_0]⟩

theorem RowOf.seReg (x y : Reg) : RowOf.Statement (.seReg x y) :=
  ⟨⟨"SE_Vx__Vy", 0x5000, 0xF00F, false⟩, by decide, rfl, fun h => by
    simp_all [encode, wordXNN_eq_wordXYN, wordNNN_eq_wordXYN, admits_wordXYN, Instr.wellFormed,
      fieldOp, fieldX, fieldY, fieldN, and_F, and_0]⟩

theorem RowOf.ldImm (x : Reg) (nn : Byte) : RowOf.Statement (.ldImm x nn) :=
  ⟨⟨"LD_Vx__NN", 0x6000, 0xF000, false⟩, by decide, rfl, fun h => by
    simp_all [encode, wordXNN_eq_wordXYN, wordNNN_eq_wordXYN, admits_wordXYN, Instr.wellFormed,
      fieldOp, fieldX, fieldY, fieldN, and_F, and_0]⟩

theorem RowOf.addImm (x : Reg) (nn : Byte) : RowOf.Statement (.addImm x nn) :=
  ⟨⟨"ADD_Vx__NN", 0x7000, 0xF000, false⟩, by decide, rfl, fun h => by
    simp_all [encode, wordXNN_eq_wordXYN, wordNNN_eq_wordXYN, admits_wordXYN, Instr.wellFormed,
      fieldOp, fieldX, fieldY, fieldN, and_F, and_0]⟩

theorem RowOf.ldReg (x y : Reg) : RowOf.Statement (.ldReg x y) :=
  ⟨⟨"LD_Vx__Vy", 0x8000, 0xF00F, false⟩, by decide, rfl, fun h => by
    simp_all [encode, wordXNN_eq_wordXYN, wordNNN_eq_wordXYN, admits_wordXYN, Instr.wellFormed,
      fieldOp, fieldX, fieldY, fieldN, and_F, and_0]⟩

theorem RowOf.orReg (x y : Reg) : RowOf.Statement (.orReg x y) :=
  ⟨⟨"OR_Vx__Vy", 0x8001, 0xF00F, false⟩, by decide, rfl, fun h => by
    simp_all [encode, wordXNN_eq_wordXYN, wordNNN_eq_wordXYN, admits_wordXYN, Instr.wellFormed,
      fieldOp, fieldX, fieldY, fieldN, and_F, and_0]⟩

theorem RowOf.andReg (x y : Reg) : RowOf.Statement (.andReg x y) :=
  ⟨⟨"AND_Vx__Vy", 0x8002, 0xF00F, false⟩, by decide, rfl, fun h => by
    simp_all [encode, wordXNN_eq_wordXYN, wordNNN_eq_wordXYN, admits_wordXYN, Instr.wellFormed,
      fieldOp, fieldX, fieldY, fieldN, and_F, and_0]⟩

theorem RowOf.xorReg (x y : Reg) : RowOf.Statement (.xorReg x y) :=
  ⟨⟨"XOR_Vx__Vy", 0x8003, 0xF00F, false⟩, by decide, rfl, fun h => by
    simp_all [encode, wordXNN_eq_wordXYN, wordNNN_eq_wordXYN, admits_wordXYN, Instr.wellFormed,
      fieldOp, fieldX, fieldY, fieldN, and_F, and_0]⟩

theorem RowOf.addReg (x y : Reg) : RowOf.Statement (.addReg x y) :=
  ⟨⟨"ADD_Vx__Vy", 0x8004, 0xF00F, false⟩, by decide, rfl, fun h => by
    simp_all [encode, wordXNN_eq_wordXYN, wordNNN_eq_wordXYN, admits_wordXYN, Instr.wellFormed,
      fieldOp, fieldX, fieldY, fieldN, and_F, and_0]⟩

theorem RowOf.sub (x y : Reg) : RowOf.Statement (.sub x y) :=
  ⟨⟨"SUB_Vx__Vy", 0x8005, 0xF00F, false⟩, by decide, rfl, fun h => by
    simp_all [encode, wordXNN_eq_wordXYN, wordNNN_eq_wordXYN, admits_wordXYN, Instr.wellFormed,
      fieldOp, fieldX, fieldY, fieldN, and_F, and_0]⟩

theorem RowOf.shr (x y : Reg) : RowOf.Statement (.shr x y) :=
  ⟨⟨"SHR_Vx", 0x8006, 0xF00F, false⟩, by decide, rfl, fun h => by
    simp_all [encode, wordXNN_eq_wordXYN, wordNNN_eq_wordXYN, admits_wordXYN, Instr.wellFormed,
      fieldOp, fieldX, fieldY, fieldN, and_F, and_0]⟩

theorem RowOf.subn (x y : Reg) : RowOf.Statement (.subn x y) :=
  ⟨⟨"SUBN_Vx__Vy", 0x8007, 0xF00F, false⟩, by decide, rfl, fun h => by
    simp_all [encode, wordXNN_eq_wordXYN, wordNNN_eq_wordXYN, admits_wordXYN, Instr.wellFormed,
      fieldOp, fieldX, fieldY, fieldN, and_F, and_0]⟩

theorem RowOf.shl (x y : Reg) : RowOf.Statement (.shl x y) :=
  ⟨⟨"SHL_Vx", 0x800E, 0xF00F, false⟩, by decide, rfl, fun h => by
    simp_all [encode, wordXNN_eq_wordXYN, wordNNN_eq_wordXYN, admits_wordXYN, Instr.wellFormed,
      fieldOp, fieldX, fieldY, fieldN, and_F, and_0]⟩

theorem RowOf.sneReg (x y : Reg) : RowOf.Statement (.sneReg x y) :=
  ⟨⟨"SNE_Vx__Vy", 0x9000, 0xF00F, false⟩, by decide, rfl, fun h => by
    simp_all [encode, wordXNN_eq_wordXYN, wordNNN_eq_wordXYN, admits_wordXYN, Instr.wellFormed,
      fieldOp, fieldX, fieldY, fieldN, and_F, and_0]⟩

theorem RowOf.ldI (nnn : Addr) : RowOf.Statement (.ldI nnn) :=
  ⟨⟨"LD_I__NNN", 0xA000, 0xF000, false⟩, by decide, rfl, fun h => by
    simp_all [encode, wordXNN_eq_wordXYN, wordNNN_eq_wordXYN, admits_wordXYN, Instr.wellFormed,
      fieldOp, fieldX, fieldY, fieldN, and_F, and_0]⟩

theorem RowOf.jpV0 (nnn : Addr) : RowOf.Statement (.jpV0 nnn) :=
  ⟨⟨"JP_V0__NNN", 0xB000, 0xF000, false⟩, by decide, rfl, fun h => by
    simp_all [encode, wordXNN_eq_wordXYN, wordNNN_eq_wordXYN, admits_wordXYN, Instr.wellFormed,
      fieldOp, fieldX, fieldY, fieldN, and_F, and_0]⟩

theorem RowOf.rnd (x : Reg) (nn : Byte) : RowOf.Statement (.rnd x nn) :=
  ⟨⟨"RND_Vx__NN", 0xC000, 0xF000, false⟩, by decide, rfl, fun h => by
    simp_all [encode, wordXNN_eq_wordXYN, wordNNN_eq_wordXYN, admits_wordXYN, Instr.wellFormed,
      fieldOp, fieldX, fieldY, fieldN, and_F, and_0]⟩

theorem RowOf.drw (x y : Reg) (n : Nibble) : RowOf.Statement (.drw x y n) :=
  ⟨⟨"DRW_Vx__Vy__N", 0xD000, 0xF000, true⟩, by decide, rfl, fun h => by
    simp_all [encode, wordXNN_eq_wordXYN, wordNNN_eq_wordXYN, admits_wordXYN, Instr.wellFormed,
      fieldOp, fieldX, fieldY, fieldN, and_F, and_0]⟩

theorem RowOf.drw16 (x y : Reg) : RowOf.Statement (.drw16 x y) :=
  ⟨⟨"DRW_Vx__Vy__0", 0xD000, 0xF00F, false⟩, by decide, rfl, fun h => by
    simp_all [encode, wordXNN_eq_wordXYN, wordNNN_eq_wordXYN, admits_wordXYN, Instr.wellFormed,
      fieldOp, fieldX, fieldY, fieldN, and_F, and_0]⟩

theorem RowOf.skp (x : Reg) : RowOf.Statement (.skp x) :=
  ⟨⟨"SKP_Vx", 0xE09E, 0xF0FF, false⟩, by decide, rfl, fun h => by
    simp_all [encode, wordXNN_eq_wordXYN, wordNNN_eq_wordXYN, admits_wordXYN, Instr.wellFormed,
      fieldOp, fieldX, fieldY, fieldN, and_F, and_0]⟩

theorem RowOf.sknp (x : Reg) : RowOf.Statement (.sknp x) :=
  ⟨⟨"SKNP_Vx", 0xE0A1, 0xF0FF, false⟩, by decide, rfl, fun h => by
    simp_all [encode, wordXNN_eq_wordXYN, wordNNN_eq_wordXYN, admits_wordXYN, Instr.wellFormed,
      fieldOp, fieldX, fieldY, fieldN, and_F, and_0]⟩

theorem RowOf.ldVxDt (x : Reg) : RowOf.Statement (.ldVxDt x) :=
  ⟨⟨"LD_Vx__DT", 0xF007, 0xF0FF, false⟩, by decide, rfl, fun h => by
    simp_all [encode, wordXNN_eq_wordXYN, wordNNN_eq_wordXYN, admits_wordXYN, Instr.wellFormed,
      fieldOp, fieldX, fieldY, fieldN, and_F, and_0]⟩

theorem RowOf.ldVxK (x : Reg) : RowOf.Statement (.ldVxK x) :=
  ⟨⟨"LD_Vx__K", 0xF00A, 0xF0FF, false⟩, by decide, rfl, fun h => by
    simp_all [encode, wordXNN_eq_wordXYN, wordNNN_eq_wordXYN, admits_wordXYN, Instr.wellFormed,
      fieldOp, fieldX, fieldY, fieldN, and_F, and_0]⟩

theorem RowOf.ldDtVx (x : Reg) : RowOf.Statement (.ldDtVx x) :=
  ⟨⟨"LD_DT__Vx", 0xF015, 0xF0FF, false⟩, by decide, rfl, fun h => by
    simp_all [encode, wordXNN_eq_wordXYN, wordNNN_eq_wordXYN, admits_wordXYN, Instr.wellFormed,
      fieldOp, fieldX, fieldY, fieldN, and_F, and_0]⟩

theorem RowOf.ldStVx (x : Reg) : RowOf.Statement (.ldStVx x) :=
  ⟨⟨"LD_ST__Vx", 0xF018, 0xF0FF, false⟩, by decide, rfl, fun h => by
    simp_all [encode, wordXNN_eq_wordXYN, wordNNN_eq_wordXYN, admits_wordXYN, Instr.wellFormed,
      fieldOp, fieldX, fieldY, fieldN, and_F, and_0]⟩

theorem RowOf.addI (x : Reg) : RowOf.Statement (.addI x) :=
  ⟨⟨"ADD_I__Vx", 0xF01E, 0xF0FF, false⟩, by decide, rfl, fun h => by
    simp_all [encode, wordXNN_eq_wordXYN, wordNNN_eq_wordXYN, admits_wordXYN, Instr.wellFormed,
      fieldOp, fieldX, fieldY, fieldN, and_F, and_0]⟩

theorem RowOf.ldF (x : Reg) : RowOf.Statement (.ldF x) :=
  ⟨⟨"LD_F__Vx", 0xF029, 0xF0FF, false⟩, by decide, rfl, fun h => by
    simp_all [encode, wordXNN_eq_wordXYN, wordNNN_eq_wordXYN, admits_wordXYN, Instr.wellFormed,
      fieldOp, fieldX, fieldY, fieldN, and_F, and_0]⟩

theorem RowOf.ldHf (x : Reg) : RowOf.Statement (.ldHf x) :=
  ⟨⟨"LD_HF__Vx", 0xF030, 0xF0FF, false⟩, by decide, rfl, fun h => by
    simp_all [encode, wordXNN_eq_wordXYN, wordNNN_eq_wordXYN, admits_wordXYN, Instr.wellFormed,
      fieldOp, fieldX, fieldY, fieldN, and_F, and_0]⟩

theorem RowOf.ldB (x : Reg) : RowOf.Statement (.ldB x) :=
  ⟨⟨"LD_B__Vx", 0xF033, 0xF0FF, false⟩, by decide, rfl, fun h => by
    simp_all [encode, wordXNN_eq_wordXYN, wordNNN_eq_wordXYN, admits_wordXYN, Instr.wellFormed,
      fieldOp, fieldX, fieldY, fieldN, and_F, and_0]⟩

theorem RowOf.ldMemVx (x : Reg) : RowOf.Statement (.ldMemVx x) :=
  ⟨⟨"LD__I___Vx", 0xF055, 0xF0FF, false⟩, by decide, rfl, fun h => by
    simp_all [encode, wordXNN_eq_wordXYN, wordNNN_eq_wordXYN, admits_wordXYN, Instr.wellFormed,
      fieldOp, fieldX, fieldY, fieldN, and_F, and_0]⟩

theorem RowOf.ldVxMem (x : Reg) : RowOf.Statement (.ldVxMem x) :=
  ⟨⟨"LD_Vx___I", 0xF065, 0xF0FF, false⟩, by decide, rfl, fun h => by
    simp_all [encode, wordXNN_eq_wordXYN, wordNNN_eq_wordXYN, admits_wordXYN, Instr.wellFormed,
      fieldOp, fieldX, fieldY, fieldN, and_F, and_0]⟩

end Sys2Proof.Laws
end

