-- ==== Sys2Proof/Machine/Assembly.lean ====
section
/-!
DEFINITION. The assembler spelling of a word, the spec's own convention (30_encoding.md R103, R104; 92_eei_decisions.md D21).
Notation only: no step reads it.
-/

namespace Sys2Proof.Machine

/-- A hexadecimal digit. -/
def hexDigit (d : Nibble) : String :=
  ["0", "1", "2", "3", "4", "5", "6", "7", "8", "9", "A", "B", "C", "D", "E", "F"].getD d.toNat ""

/-- A general register, `V0`..`VF`. -/
def regText (r : Reg) : String := "V" ++ hexDigit r

/-- NN, hexadecimal with its prefix. -/
def byteText (nn : Byte) : String := "0x" ++ hexDigit (nn.extractLsb' 4 4) ++ hexDigit (nn.extractLsb' 0 4)

/-- NNN, hexadecimal with its prefix. -/
def addrText (nnn : Addr) : String :=
  "0x" ++ hexDigit (nnn.extractLsb' 8 4) ++ hexDigit (nnn.extractLsb' 4 4) ++ hexDigit (nnn.extractLsb' 0 4)

/-- N, decimal. -/
def nibbleText (n : Nibble) : String :=
  ["0", "1", "2", "3", "4", "5", "6", "7", "8", "9", "10", "11", "12", "13", "14", "15"].getD n.toNat ""

/-- An unknown word, `DW 0xhhhh`. -/
def dataText (w : Word) : String :=
  "DW 0x" ++ hexDigit (fieldOp w) ++ hexDigit (fieldX w) ++ hexDigit (fieldY w) ++ hexDigit (fieldN w)

/-- A mnemonic with two operands. -/
def twoOperands (mnemonic a b : String) : String := mnemonic ++ " " ++ a ++ ", " ++ b

/-- A shift: the ignored Y is printed only when it is not 0. -/
def shiftText (mnemonic : String) (x y : Reg) : String :=
  if y = 0 then mnemonic ++ " " ++ regText x else twoOperands mnemonic (regText x) (regText y)

/-- The spelling of an instruction (R93, the mnemonic column; R103). -/
def asmText : Instr → String
  | .cls => "CLS"
  | .ret => "RET"
  | .scd n => "SCD " ++ nibbleText n
  | .scr => "SCR"
  | .scl => "SCL"
  | .low => "LOW"
  | .high => "HIGH"
  | .jp nnn => "JP " ++ addrText nnn
  | .call nnn => "CALL " ++ addrText nnn
  | .seImm x nn => twoOperands "SE" (regText x) (byteText nn)
  | .sneImm x nn => twoOperands "SNE" (regText x) (byteText nn)
  | .seReg x y => twoOperands "SE" (regText x) (regText y)
  | .ldImm x nn => twoOperands "LD" (regText x) (byteText nn)
  | .addImm x nn => twoOperands "ADD" (regText x) (byteText nn)
  | .ldReg x y => twoOperands "LD" (regText x) (regText y)
  | .orReg x y => twoOperands "OR" (regText x) (regText y)
  | .andReg x y => twoOperands "AND" (regText x) (regText y)
  | .xorReg x y => twoOperands "XOR" (regText x) (regText y)
  | .addReg x y => twoOperands "ADD" (regText x) (regText y)
  | .sub x y => twoOperands "SUB" (regText x) (regText y)
  | .shr x y => shiftText "SHR" x y
  | .subn x y => twoOperands "SUBN" (regText x) (regText y)
  | .shl x y => shiftText "SHL" x y
  | .sneReg x y => twoOperands "SNE" (regText x) (regText y)
  | .ldI nnn => twoOperands "LD" "I" (addrText nnn)
  | .jpV0 nnn => twoOperands "JP" "V0" (addrText nnn)
  | .rnd x nn => twoOperands "RND" (regText x) (byteText nn)
  | .drw x y n => twoOperands "DRW" (regText x) (regText y) ++ ", " ++ nibbleText n
  | .drw16 x y => twoOperands "DRW" (regText x) (regText y) ++ ", 0"
  | .skp x => "SKP " ++ regText x
  | .sknp x => "SKNP " ++ regText x
  | .ldVxDt x => twoOperands "LD" (regText x) "DT"
  | .ldVxK x => twoOperands "LD" (regText x) "K"
  | .ldDtVx x => twoOperands "LD" "DT" (regText x)
  | .ldStVx x => twoOperands "LD" "ST" (regText x)
  | .addI x => twoOperands "ADD" "I" (regText x)
  | .ldF x => twoOperands "LD" "F" (regText x)
  | .ldHf x => twoOperands "LD" "HF" (regText x)
  | .ldB x => twoOperands "LD" "B" (regText x)
  | .ldMemVx x => twoOperands "LD" "[I]" (regText x)
  | .ldVxMem x => twoOperands "LD" (regText x) "[I]"

/-- The spelling of a word: its instruction, or `DW` for an unknown word. -/
def asmWord (w : Word) : String :=
  match decodeWord w with
  | .ok i => asmText i
  | .error _ => dataText w

end Sys2Proof.Machine
end

