-- ==== Sys2Proof/Tests/Slice0.lean ====
section
/-!
SUPPORT. Tests: words and results written out from the spec (30_encoding.md; 95_test_vectors.md), and for each statement of
Certificates/Slice0/Obligations.lean that has hypotheses, a state and operands that meet them.
-/

namespace Sys2Proof.Tests

open Sys2Proof Sys2Proof.Machine

/-! ## Well-formedness (30_encoding.md R93, R96) -/

theorem test_drw_without_rows_ill_formed : Instr.wellFormed (.drw 0 1 0) = false := by decide

theorem test_drw16_well_formed : Instr.wellFormed (.drw16 0 1) = true := by decide

/-! ## Decoding: one word a row, written out from R93 and the examples of the rules -/

theorem test_decode_display :
    decodeWord 0x00E0 = .ok .cls ∧ decodeWord 0x00C1 = .ok (.scd 1) ∧ decodeWord 0x00FB = .ok .scr ∧
    decodeWord 0x00FC = .ok .scl ∧ decodeWord 0x00FE = .ok .low ∧ decodeWord 0x00FF = .ok .high ∧
    decodeWord 0xD125 = .ok (.drw 1 2 5) ∧ decodeWord 0xD230 = .ok (.drw16 2 3) := by decide

theorem test_decode_flow :
    decodeWord 0x00EE = .ok .ret ∧ decodeWord 0x1300 = .ok (.jp 0x300) ∧ decodeWord 0x220E = .ok (.call 0x20E) ∧
    decodeWord 0x3305 = .ok (.seImm 3 5) ∧ decodeWord 0x4306 = .ok (.sneImm 3 6) ∧ decodeWord 0x5120 = .ok (.seReg 1 2) ∧
    decodeWord 0x9120 = .ok (.sneReg 1 2) ∧ decodeWord 0xBFFF = .ok (.jpV0 0xFFF) := by decide

theorem test_decode_immediates :
    decodeWord 0x6F42 = .ok (.ldImm 0xF 0x42) ∧ decodeWord 0x70FF = .ok (.addImm 0 0xFF) ∧
    decodeWord 0xC30F = .ok (.rnd 3 0x0F) := by decide

theorem test_decode_registers :
    decodeWord 0x8250 = .ok (.ldReg 2 5) ∧ decodeWord 0x8251 = .ok (.orReg 2 5) ∧ decodeWord 0x8252 = .ok (.andReg 2 5) ∧
    decodeWord 0x8253 = .ok (.xorReg 2 5) ∧ decodeWord 0x8254 = .ok (.addReg 2 5) ∧ decodeWord 0x8255 = .ok (.sub 2 5) ∧
    decodeWord 0x8256 = .ok (.shr 2 5) ∧ decodeWord 0x8257 = .ok (.subn 2 5) ∧ decodeWord 0x825E = .ok (.shl 2 5) := by
  decide

theorem test_decode_index :
    decodeWord 0xA123 = .ok (.ldI 0x123) ∧ decodeWord 0xF11E = .ok (.addI 1) ∧ decodeWord 0xF029 = .ok (.ldF 0) ∧
    decodeWord 0xF030 = .ok (.ldHf 0) ∧ decodeWord 0xF533 = .ok (.ldB 5) ∧ decodeWord 0xF355 = .ok (.ldMemVx 3) ∧
    decodeWord 0xF265 = .ok (.ldVxMem 2) := by decide

theorem test_decode_keys_timers :
    decodeWord 0xE49E = .ok (.skp 4) ∧ decodeWord 0xE4A1 = .ok (.sknp 4) ∧ decodeWord 0xF207 = .ok (.ldVxDt 2) ∧
    decodeWord 0xF30A = .ok (.ldVxK 3) ∧ decodeWord 0xF115 = .ok (.ldDtVx 1) ∧ decodeWord 0xF118 = .ok (.ldStVx 1) := by
  decide

/-- R94, R95, R97: words near an instruction that are none. -/
theorem test_decode_unknown :
    decodeWord 0x0000 = .error (.unknownWord 0x0000) ∧ decodeWord 0x01E0 = .error (.unknownWord 0x01E0) ∧
    decodeWord 0x00FD = .error (.unknownWord 0x00FD) ∧ decodeWord 0x5121 = .error (.unknownWord 0x5121) ∧
    decodeWord 0x8238 = .error (.unknownWord 0x8238) ∧ decodeWord 0x9121 = .error (.unknownWord 0x9121) ∧
    decodeWord 0xE19F = .error (.unknownWord 0xE19F) ∧ decodeWord 0xF175 = .error (.unknownWord 0xF175) := by decide

/-- Vector S1: the byte at the lower address is the high byte. -/
theorem test_decode_bytes : decodeBytes [0xA2, 0x2A, 0x77] = .ok (.ldI 0x22A, [0x77]) := by decide

theorem test_decode_truncated : decodeBytes [0xA2] = .error (.truncated 1) := by decide

theorem test_decode_table_word : decodeTableWord 16 0xD125 = some (.drw 1 2 5) := by decide

/-! ## Spelling (R103) -/

theorem test_spelling :
    asmWord 0x820E = "SHL V2" ∧ asmWord 0x8236 = "SHR V2, V3" ∧ asmWord 0xD012 = "DRW V0, V1, 2" ∧
    asmWord 0xF355 = "LD [I], V3" ∧ asmWord 0x00FD = "DW 0x00FD" := by decide

/-! ## Test states -/

/-- Running at ORIGIN, everything else as after reset: the start of 95_test_vectors.md, but for the program. -/
def running : State := { State.reset with run := .running }

/-- Running, with another setting of the parameters. -/
def runningWith (p : Params) : State := { running with params := p }

/-- Give a register a value. -/
def withV (s : State) (r : Reg) (b : Byte) : State := s.setV r b

/-- Put bytes in memory. -/
def withBytes (s : State) (a : Nat) (bs : List Byte) : State := s.setMem (s.mem.writeList a bs)

/-- Light pixels. -/
def withLit (s : State) (ps : List (Nat × Nat)) : State := s.setFb (ps.foldl (fun g p => g.flip p.1 p.2) s.fb)

/-- The high-resolution blank screen. -/
def inHigh (s : State) : State := s.setResolution .high

/-- The fault an outcome is, if it is one. -/
def faultOf : Host.Outcome State Fault Refusal → Option Fault
  | .next _ => none
  | .fault f => some f
  | .refused _ => none

/-- The refusal an outcome is, if it is one. -/
def refusalOf : Host.Outcome State Fault Refusal → Option Refusal
  | .next _ => none
  | .fault _ => none
  | .refused r => some r

/-- Whether an outcome is a next state in which the test holds. -/
def nextIs (o : Host.Outcome State Fault Refusal) (test : State → Bool) : Bool :=
  match o with
  | .next t => test t
  | .fault _ => false
  | .refused _ => false

/-- Whether the next step, running the word, gives a state in which the test holds. -/
def gives (s : State) (w : Nat) (test : State → Bool) : Bool :=
  nextIs (step (s.withFetchWord 16 w)) test

/-- The lit pixels of row y, left to right. -/
def litIn (t : State) (y : Nat) : List Nat := (List.range t.width).filter fun x => t.fb.pixel x y

/-- The machine has entered Faulted with this error at this address and word. -/
def faultedWith (t : State) (e : FatalError) (pc : Word) (w : Option Word) : Bool :=
  t.run == .faulted && t.fault == some ⟨e, pc, w⟩ && t.pc == pc

/-! ## Display (vectors DP) -/

/-- DP-1. -/
theorem test_cls : gives (withLit running [(1, 1), (2, 2)]) 0x00E0
    (fun t => litIn t 1 == [] && litIn t 2 == [] && t.pc == 0x202) = true := by decide

/-- DP-2. -/
theorem test_scd : gives (withLit running [(3, 31)]) 0x00C1 (fun t => litIn t 0 == [3] && litIn t 31 == []) = true := by
  decide

/-- DP-3. -/
theorem test_scd_zero : gives (withLit running [(3, 31)]) 0x00C0 (fun t => litIn t 31 == [3]) = true := by decide

/-- DP-4. -/
theorem test_scr : gives (withLit running [(62, 5)]) 0x00FB (fun t => litIn t 5 == [2]) = true := by decide

/-- DP-5. -/
theorem test_scl : gives (withLit (inHigh running) [(1, 60)]) 0x00FC (fun t => litIn t 60 == [125]) = true := by decide

/-- DP-7. -/
theorem test_low : gives (withLit (inHigh running) [(20, 10)]) 0x00FE
    (fun t => t.res == .low && t.fb.length == 32 && litIn t 10 == []) = true := by decide

/-- DP-6. -/
theorem test_high : gives (withLit running [(1, 1)]) 0x00FF
    (fun t => t.res == .high && t.fb.length == 64 && litIn t 1 == []) = true := by decide

/-- DP-12. -/
theorem test_drw_clips : gives (withBytes { withV running 0 60 with i := 0x300 } 0x300 [0xFF]) 0xD011
    (fun t => litIn t 0 == [60, 61, 62, 63] && t.getV 0xF == 0) = true := by decide

/-- DP-10: the second draw of S7. -/
theorem test_drw_collides : gives (withLit (withBytes { running with i := 0x300 } 0x300 [0x80]) [(0, 0)]) 0xD011
    (fun t => litIn t 0 == [] && t.getV 0xF == 1) = true := by decide

/-- DP-18: the right half starts at column 128 mod 128, in bit 0 of its byte. -/
theorem test_drw16 : gives (withBytes { withV (withV (inHigh running) 0 120) 1 60 with i := 0x300 } 0x300 [0x80, 0x01]) 0xD010
    (fun t => litIn t 60 == [7, 120] && t.getV 0xF == 0) = true := by decide

/-- DP-20. -/
theorem test_drw16_overruns : gives (withBytes { running with i := 0xFFE } 0xFFE [0x80, 0x80]) 0xD010
    (fun t => litIn t 0 == [0, 8] && faultedWith t (.bounds 0x1000 .read) 0x200 (some 0xD010)) = true := by decide

/-! ## Flow (vectors F) -/

/-- F-9. -/
theorem test_ret : gives { running with pc := 0x400, stack := [0x202] } 0x00EE
    (fun t => t.pc == 0x202 && t.stack == []) = true := by decide

/-- F-10. -/
theorem test_ret_underflow : gives running 0x00EE (faultedWith · .stackUnderflow 0x200 (some 0x00EE)) = true := by decide

/-- F-1. -/
theorem test_jp : gives running 0x1300 (·.pc == 0x300) = true := by decide

/-- F-6. -/
theorem test_call : gives running 0x2400 (fun t => t.pc == 0x400 && t.stack == [0x202]) = true := by decide

/-- F-7. -/
theorem test_call_overflow : gives { running with stack := List.replicate 16 0x300 } 0x2400
    (faultedWith · (.stackOverflow 16) 0x200 (some 0x2400)) = true := by decide

/-- F-12. -/
theorem test_se_imm : gives (withV running 0 5) 0x3005 (·.pc == 0x204) = true ∧
    gives (withV running 0 5) 0x3006 (·.pc == 0x202) = true := by decide

/-- F-13. -/
theorem test_sne_imm : gives (withV running 0 5) 0x4006 (·.pc == 0x204) = true ∧
    gives (withV running 0 5) 0x4005 (·.pc == 0x202) = true := by decide

/-- F-14, F-15. -/
theorem test_se_reg : gives (withV (withV running 1 9) 2 9) 0x5120 (·.pc == 0x204) = true ∧
    gives (withV (withV running 1 9) 2 8) 0x5120 (·.pc == 0x202) = true := by decide

/-- F-15. -/
theorem test_sne_reg : gives (withV (withV running 1 9) 2 8) 0x9120 (·.pc == 0x204) = true := by decide

/-- F-18. -/
theorem test_jp_v0 : gives (withV running 0 0xFF) 0xBFFF (·.pc == 0x10FE) = true := by decide

/-! ## Arithmetic and logic (vectors A) -/

/-- A-1. -/
theorem test_ld_imm : gives running 0x6F42 (·.getV 0xF == 0x42) = true := by decide

/-- A-2. -/
theorem test_add_imm_wraps : gives (withV (withV running 0 0x02) 0xF 0x5A) 0x70FF
    (fun t => t.getV 0 == 0x01 && t.getV 0xF == 0x5A) = true := by decide

/-- A-19. -/
theorem test_ld_reg : gives (withV (withV running 2 0x11) 5 0x22) 0x8250 (·.getV 2 == 0x22) = true := by decide

/-- A-16. -/
theorem test_or : gives (withV (withV (withV running 0 0xF0) 1 0x0F) 0xF 0x77) 0x8011
    (fun t => t.getV 0 == 0xFF && t.getV 0xF == 0x77) = true := by decide

/-- A-17. -/
theorem test_and : gives (withV (withV running 0 0xF0) 1 0x3C) 0x8012 (·.getV 0 == 0x30) = true := by decide

/-- R220's example. -/
theorem test_xor : gives (withV (withV running 0 0x3C) 1 0xFF) 0x8013 (·.getV 0 == 0xC3) = true := by decide

/-- A-3. -/
theorem test_add_carries : gives (withV (withV running 0 0xFF) 1 0x01) 0x8014
    (fun t => t.getV 0 == 0x00 && t.getV 0xF == 1) = true := by decide

/-- A-5. -/
theorem test_add_into_flag : gives (withV (withV running 0xF 0xFF) 1 0x02) 0x8F14 (·.getV 0xF == 0x01) = true := by decide

/-- S4. -/
theorem test_sub_borrows : gives (withV (withV running 0 0x03) 1 0x05) 0x8015
    (fun t => t.getV 0 == 0xFE && t.getV 0xF == 0) = true := by decide

/-- A-7, both settings of VF_ALIAS. -/
theorem test_sub_into_flag : gives (withV (withV running 0xF 0x10) 1 0x01) 0x8F15 (·.getV 0xF == 0) = true ∧
    gives { withV (withV running 0xF 0x10) 1 0x01 with params := { Params.default with vfAlias := .snapshot } } 0x8F15
      (·.getV 0xF == 0x0F) = true := by decide

/-- A-8. -/
theorem test_shr : gives (withV running 0 0x05) 0x8006 (fun t => t.getV 0 == 0x02 && t.getV 0xF == 1) = true := by decide

/-- A-10. -/
theorem test_shr_flag : gives (withV running 0xF 0xFF) 0x8F06 (·.getV 0xF == 0) = true := by decide

/-- A-11. -/
theorem test_subn : gives (withV (withV running 0 3) 1 5) 0x8017
    (fun t => t.getV 0 == 0x02 && t.getV 0xF == 1) = true := by decide

/-- A-12. -/
theorem test_subn_borrows : gives (withV (withV running 0 5) 1 3) 0x8017
    (fun t => t.getV 0 == 0xFE && t.getV 0xF == 0) = true := by decide

/-- A-13. -/
theorem test_shl : gives (withV running 0 0x81) 0x800E (fun t => t.getV 0 == 0x02 && t.getV 0xF == 1) = true := by decide

/-- A-14. -/
theorem test_shl_flag : gives (withV running 0xF 0x80) 0x8F0E (·.getV 0xF == 0x02) = true := by decide

/-- R226: one byte is drawn, and no other register is written. -/
theorem test_rnd_draws : gives (withV running 4 9) 0xC30F
    (fun t => t.rngCount == 1 && t.getV 4 == 9 && t.getV 0xF == 0) = true := by decide

/-- A-21: the result for NN = 0 is 0, whatever is drawn. -/
theorem test_rnd_zero_mask : nextIs (exec (.rnd 3 0) (withV running 3 9)) (·.getV 3 == 0) = true := by
  simp [nextIs, exec, execRnd, State.getV, State.setV]

/-! ## Address register and memory (vectors M) -/

/-- M-1. -/
theorem test_ld_i : gives running 0xA123 (·.i == 0x123) = true := by decide

/-- M-3. -/
theorem test_add_i : gives (withV { running with i := 0xFFF } 1 1) 0xF11E (·.i == 0x1000) = true := by decide

/-- M-4. -/
theorem test_add_i_wraps : gives (withV { running with i := 0xFFFF } 1 1) 0xF11E (·.i == 0x0000) = true := by decide

/-- M-5. -/
theorem test_ld_f : gives (withV running 0 0x1A) 0xF029 (·.i == 0x032) = true := by decide

/-- M-8. -/
theorem test_ld_hf : gives (withV running 0 0xFF) 0xF030 (·.i == 0x0E6) = true := by decide

/-- S5. -/
theorem test_bcd : gives (withV { running with i := 0x300 } 5 156) 0xF533
    (fun t => t.mem.read 0x300 == 1 && t.mem.read 0x301 == 5 && t.mem.read 0x302 == 6 && t.i == 0x300) = true := by decide

/-- M-11. -/
theorem test_bcd_overruns : gives (withV { running with i := 0xFFE } 0 123) 0xF033
    (fun t => t.mem.read 0xFFE == 1 && t.mem.read 0xFFF == 2 && faultedWith t (.bounds 0x1000 .write) 0x200 (some 0xF033)) =
      true := by decide

/-- R250's example. -/
theorem test_dump : gives (withV (withV (withV (withV { running with i := 0x300 } 0 9) 1 8) 2 7) 3 6) 0xF355
    (fun t => t.mem.read 0x300 == 9 && t.mem.read 0x303 == 6 && t.mem.read 0x304 == 0 && t.i == 0x300) = true := by decide

/-- M-13. -/
theorem test_dump_overruns : gives (withV (withV { running with i := 0xFFE } 0 1) 1 2) 0xF355
    (fun t => t.mem.read 0xFFF == 2 && faultedWith t (.bounds 0x1000 .write) 0x200 (some 0xF355)) = true := by decide

/-- M-14. -/
theorem test_load : gives (withBytes { running with i := 0x300 } 0x300 [9, 8, 7, 6]) 0xF365
    (fun t => t.getV 0 == 9 && t.getV 3 == 6 && t.getV 4 == 0 && t.i == 0x300) = true := by decide

/-- M-16, with the default FONT_SMALL and, after a stop, with one whose first byte differs. -/
theorem test_load_small_font :
    gives running 0xF465 (fun t => t.getV 0 == 0xF0 && t.getV 1 == 0x90 && t.getV 4 == 0xF0) = true ∧
    gives { (runningWith { Params.default with fontSmall := Config.fontSmall.set 0 0x7E }).fullReset with i := 0x000 } 0xF465
      (fun t => t.getV 0 == 0x7E && t.getV 1 == 0x90 && t.getV 4 == 0xF0) = true := by decide

/-- M-15. -/
theorem test_load_overruns : gives (withBytes { running with i := 0xFFF } 0xFFF [0x77]) 0xF265
    (fun t => t.getV 0 == 0x77 && faultedWith t (.bounds 0x1000 .read) 0x200 (some 0xF265)) = true := by decide

/-! ## Keys and timers (vectors K, W) -/

/-- K-1. -/
theorem test_skp : gives ((withV running 4 0xA).setDown 0xA true) 0xE49E (·.pc == 0x204) = true := by decide

/-- K-3. -/
theorem test_skp_key_index : gives (withV running 4 0x10) 0xE49E
    (faultedWith · (.keyIndex 0x10) 0x200 (some 0xE49E)) = true := by decide

/-- K-2. -/
theorem test_sknp : gives (withV running 4 0xA) 0xE4A1 (·.pc == 0x204) = true := by decide

/-- K-5: the register takes the value before the tick. -/
theorem test_ld_vx_dt : gives { running with dt := 0x3C } 0xF207 (·.getV 2 == 0x3C) = true := by decide

/-- K-11. -/
theorem test_key_wait : gives { running with dt := 5, pressed := true } 0xF30A
    (fun t => t.wait == some 3 && !t.pressed && t.pc == 0x200 && t.dt == 5) = true := by decide

/-- R280's example, before the tick. -/
theorem test_ld_dt_vx : nextIs (exec (.ldDtVx 1) (withV running 1 60)) (·.dt == 60) = true := by decide

/-- R281's example, before the tick. -/
theorem test_ld_st_vx : nextIs (exec (.ldStVx 1) (withV running 1 2)) (fun t => t.st == 2 && t.tone) = true := by decide

/-- W-1: the completion. -/
theorem test_wait_completes :
    nextIs (step { (running.setDown 7 true) with wait := some 3 })
      (fun t => t.getV 3 == 7 && t.wait == none && t.pc == 0x202) = true := by decide

/-- W-7. -/
theorem test_wait_hangs : faultOf (step { running with wait := some 3 }) = some (.keyWait 3) := by decide

/-! ## Cycle, unknown words, host (vectors U, H) -/

/-- U-2. -/
theorem test_unknown_offset : gives { running with pc := 0x1FE } 0x00FD
    (fun t => t.diag == [.unknown 0x00FD (-2)] && t.pc == 0x200) = true := by decide

/-- U-3. -/
theorem test_unknown_refused :
    refusalOf (step ({ running with params := { Params.default with unknownWord := .refuse } }.withFetchWord 16 0x8008)) =
      some (.unknownWord 0x8008) := by decide

/-- U-4. -/
theorem test_odd_fetch : gives { running with pc := 0x201 } 0x6005
    (faultedWith · (.misalignedFetch 0x201) 0x201 none) = true := by decide

/-- F-5. -/
theorem test_odd_fetch_allowed :
    gives { running with pc := 0xFFF, params := { Params.default with oddPc := .fetch } } 0x6005
      (faultedWith · (.bounds 0x1000 .fetch) 0xFFF none) = true := by decide

/-- U-6. -/
theorem test_fetch_past_memory : gives { running with pc := 0x1000 } 0x6005
    (faultedWith · (.bounds 0x1000 .fetch) 0x1000 none) = true := by decide

/-- H-8: no fetch, so no alignment check. -/
theorem test_execute_raw :
    nextIs (hostStep (.executeRaw 0x6105) { running with run := .paused, pc := 0x201 })
      (fun t => t.getV 1 == 5 && t.pc == 0x203 && t.run == .paused) = true := by decide

/-- R325 with an unknown word: logged, the cycle ended, Paused. -/
theorem test_execute_raw_unknown :
    nextIs (hostStep (.executeRaw 0x8008) { running with run := .loaded })
      (fun t => t.diag == [.unknown 0x8008 0] && t.pc == 0x202 && t.run == .paused) = true := by decide

/-- H-15 and H-4: key flags survive a load. -/
theorem test_load_program :
    nextIs (hostStep (.loadProgram [0x60, 0x05]) (State.reset.setDown 3 true))
      (fun t => t.run == .loaded && t.mem.read 0x200 == 0x60 && t.mem.read 0x202 == 0 && t.isDown 3) = true := by decide

/-- R302: a CORE step in Faulted. -/
theorem test_faulted_stops : faultOf (step { running with run := .faulted }) = some (.faulted none) := by decide

/-- How a program comes to run: loadProgram, play, and then cycles (log 11). -/
theorem test_load_and_play :
    nextIs (step { State.reset with schedule := [.host (.loadProgram [0x60, 0x05]), .host .play] })
      (fun s => nextIs (step s) fun t => t.run == .running && t.pc == 0x200 && t.schedule == []) = true := by decide

/-! ## Witnesses: states and operands that meet the hypotheses of each statement -/

/-- Odd fetches allowed. -/
def oddAllowed : Params := { Params.default with oddPc := .fetch }

/-- The state whose next fetch is this word. -/
def atWord (w : Nat) : State := running.withFetchWord 16 w

theorem witness_decode_of_encode : Instr.wellFormed (.drw 0xF 0xF 0xF) = true := by decide

theorem witness_encode_of_decode : decodeWord 0xDFFF = .ok (.drw 0xF 0xF 0xF) := by decide

theorem witness_opcode_row :
    (opcodeMap.getD 40 ⟨"", 0, 0, true⟩).admits 0xFF65 = true ∧ opcodeMap.getD 40 ⟨"", 0, 0, true⟩ ∈ opcodeMap ∧
    decodeWord 0xFF65 = .ok (.ldVxMem 0xF) := by decide

/-- The last slot of memory, and under ODD_PC_POLICY = fetch the last odd address that can be fetched from. -/
theorem witness_fetchable : Fetchable { running with pc := 0xFFE } ∧ Fetchable { runningWith oddAllowed with pc := 0xFFD } :=
  ⟨⟨by decide, by decide⟩, ⟨by decide, by decide⟩⟩

theorem witness_step_runs_decoded :
    CycleNext (atWord 0x6005) ∧ Fetchable (atWord 0x6005) ∧ decodeWord (wordAtPc (atWord 0x6005)) = .ok (.ldImm 0 5) :=
  ⟨⟨by decide, by decide, by decide⟩, ⟨by decide, by decide⟩, by decide⟩

theorem witness_completed_cycle :
    ∃ s i t, CycleNext s ∧ Fetchable s ∧ decodeWord (wordAtPc s) = .ok i ∧ exec i s = .next t ∧ t.run ≠ .faulted ∧
      t.wait = none :=
  ⟨atWord 0x6005, .ldImm 0 5, _, ⟨by decide, by decide, by decide⟩, ⟨by decide, by decide⟩, by decide, rfl, by decide,
    by decide⟩

theorem witness_cycle_after_error :
    ∃ s i t, CycleNext s ∧ Fetchable s ∧ decodeWord (wordAtPc s) = .ok i ∧ exec i s = .next t ∧ t.run = .faulted :=
  ⟨atWord 0x00EE, .ret, _, ⟨by decide, by decide, by decide⟩, ⟨by decide, by decide⟩, by decide, rfl, by decide⟩

theorem witness_cycle_after_wait :
    ∃ s i t, CycleNext s ∧ Fetchable s ∧ decodeWord (wordAtPc s) = .ok i ∧ exec i s = .next t ∧ t.wait ≠ none :=
  ⟨atWord 0xFF0A, .ldVxK 0xF, _, ⟨by decide, by decide, by decide⟩, ⟨by decide, by decide⟩, by decide, rfl, by decide⟩

/-- Odd and at the last address; just past memory; the last address with odd fetches allowed. -/
theorem witness_fetch_errors :
    (let s := { running with pc := 0xFFF }
     CycleNext s ∧ MisalignedPc s) ∧
    (let s := { running with pc := 0x1000 }
     CycleNext s ∧ ¬MisalignedPc s ∧ Config.memSize ≤ s.pc.toNat) ∧
    (let s := { runningWith oddAllowed with pc := 0xFFF }
     CycleNext s ∧ ¬MisalignedPc s ∧ s.pc.toNat + 1 = Config.memSize) :=
  ⟨⟨⟨by decide, by decide, by decide⟩, by decide, by decide⟩,
    ⟨⟨by decide, by decide, by decide⟩, fun h => absurd h.2 (by decide), by decide⟩,
    ⟨by decide, by decide, by decide⟩, fun h => absurd h.1 (by decide), by decide⟩

theorem witness_unknown_word :
    CycleNext (atWord 0x5121) ∧ Fetchable (atWord 0x5121) ∧
    decodeWord (wordAtPc (atWord 0x5121)) = .error (.unknownWord 0x5121) ∧ (atWord 0x5121).params.unknownWord = .nop :=
  ⟨⟨by decide, by decide, by decide⟩, ⟨by decide, by decide⟩, by decide, by decide⟩

theorem witness_unknown_word_refused :
    let s := (runningWith { Params.default with unknownWord := .refuse }).withFetchWord 16 0x8008
    CycleNext s ∧ Fetchable s ∧ decodeWord (wordAtPc s) = .error (.unknownWord 0x8008) ∧ s.params.unknownWord = .refuse :=
  ⟨⟨by decide, by decide, by decide⟩, ⟨by decide, by decide⟩, by decide, by decide⟩

theorem witness_pc_in_reach :
    let s := (withV running 0 0xFF).withFetchWord 16 0xBFFF
    CycleNext s ∧ Fetchable s ∧ decodeWord (wordAtPc s) = .ok (.jpV0 0xFFF) ∧ nextIs (step s) (·.pc == 0x10FE) = true :=
  ⟨⟨by decide, by decide, by decide⟩, ⟨by decide, by decide⟩, by decide, by decide⟩

/-- A CORE step is the next input, and a key event and another CORE step come after it. -/
def queued (s : State) : State := { s with schedule := [.core, .setDown 7 true, .core] }

/-- R320: a cycle asked for by the schedule runs, ticks once, and leaves the later inputs. -/
theorem test_queued_cycle : nextIs (step (queued (atWord 0x6005)))
    (fun t => t.getV 0 == 5 && t.pc == 0x202 && t.tickCount == 1 && t.schedule == [.setDown 7 true, .core]) = true := by
  decide

/-- With inputs to come: an instruction that completes, one that faults, one that waits, an unknown word. -/
theorem witness_queued_cycle :
    (∃ t, CycleNext (queued (atWord 0x6005)) ∧ Fetchable (queued (atWord 0x6005)) ∧
      decodeWord (wordAtPc (queued (atWord 0x6005))) = .ok (.ldImm 0 5) ∧
      exec (.ldImm 0 5) (queued (atWord 0x6005)).dequeue = .next t ∧ t.run ≠ .faulted ∧ t.wait = none) ∧
    (∃ t, exec .ret (queued (atWord 0x00EE)).dequeue = .next t ∧ t.run = .faulted) ∧
    (∃ t, exec (.ldVxK 3) (queued (atWord 0xF30A)).dequeue = .next t ∧ t.wait ≠ none) ∧
    (CycleNext (queued (atWord 0x5121)) ∧ Fetchable (queued (atWord 0x5121)) ∧
      decodeWord (wordAtPc (queued (atWord 0x5121))) = .error (.unknownWord 0x5121)) :=
  ⟨⟨_, ⟨by decide, by decide, by decide⟩, ⟨by decide, by decide⟩, by decide, rfl, by decide, by decide⟩,
    ⟨_, rfl, by decide⟩, ⟨_, rfl, by decide⟩, ⟨by decide, by decide, by decide⟩, ⟨by decide, by decide⟩, by decide⟩

/-- With inputs to come: a fetch error, a CORE step that is not enabled, a key wait with and without an edge. -/
theorem witness_queued_others :
    (CycleNext (queued { running with pc := 0xFFF }) ∧ MisalignedPc (queued { running with pc := 0xFFF })) ∧
    (CoreNext (queued State.reset) ∧ (queued State.reset).run = .idle) ∧
    (let s := queued { running with wait := some 3, pressed := true }
     CoreNext s ∧ s.run = .running ∧ s.wait = some 3 ∧ s.pressed = true) ∧
    (let s := queued { running with wait := some 3 }
     CoreNext s ∧ s.run = .running ∧ s.wait = some 3 ∧ s.pressed = false) :=
  ⟨⟨⟨by decide, by decide, by decide⟩, by decide, by decide⟩, by decide, by decide, by decide⟩

theorem witness_no_core_step :
    State.reset.schedule = [] ∧ State.reset.run = .idle ∧ { running with run := .faulted }.schedule = [] ∧
    { running with run := .loaded }.schedule = [] ∧ { running with run := .paused }.schedule = [] := by decide

/-- Running with this I. -/
def atI (i : Word) : State := { running with i := i }

theorem witness_draw : ScreenSized (atI 0xFFF) ∧ (atI 0xFFF).i.toNat + (1 : Nibble).toNat ≤ Config.memSize :=
  ⟨Grid.sized_blank _ _, by decide⟩

theorem witness_draw_sixteen :
    let s := { inHigh running with i := 0xFE0 }
    ScreenSized s ∧ s.i.toNat + 32 ≤ Config.memSize := ⟨Grid.sized_blank _ _, by decide⟩

/-- One row past memory, and a sprite that starts outside it. -/
theorem witness_draw_past_memory :
    (ScreenSized (atI 0xFFF) ∧ Config.memSize < (atI 0xFFF).i.toNat + (2 : Nibble).toNat ∧ (2 : Nibble) ≠ 0) ∧
    (ScreenSized (atI 0x1000) ∧ Config.memSize < (atI 0x1000).i.toNat + (1 : Nibble).toNat) ∧
    (ScreenSized (atI 0xFE1) ∧ Config.memSize < (atI 0xFE1).i.toNat + 32) :=
  ⟨⟨Grid.sized_blank _ _, by decide, by decide⟩, ⟨Grid.sized_blank _ _, by decide⟩, ⟨Grid.sized_blank _ _, by decide⟩⟩

theorem witness_ret : { running with stack := [0x202] }.stack = 0x202 :: [] ∧ running.stack = [] := by decide

theorem witness_call :
    let withDepth : Nat → State := fun n => { running with stack := List.replicate n 0x300 }
    (withDepth 15).stack.length < (withDepth 15).params.stackDepth ∧
    (withDepth 16).params.stackDepth ≤ (withDepth 16).stack.length := by decide

theorem witness_flag_free : (0xE : Reg) ≠ Reg.flag ∧ (0x0 : Reg) ≠ Reg.flag := by decide

theorem witness_bcd : (atI 0xFFD).mem.wf ∧ (atI 0xFFD).i.toNat + 2 < Config.memSize := ⟨State.wf_reset_mem, by decide⟩

theorem witness_register_block : (atI 0xFF0).mem.wf ∧ (atI 0xFF0).i.toNat + (0xF : Reg).toNat < Config.memSize :=
  ⟨State.wf_reset_mem, by decide⟩

theorem witness_stores_past_memory :
    (atI 0xFFE).mem.wf ∧ Config.memSize ≤ (atI 0xFFE).i.toNat + 2 ∧
    Config.memSize ≤ (atI 0xFFE).i.toNat + (2 : Reg).toNat := ⟨State.wf_reset_mem, by decide, by decide⟩

theorem witness_load_past_memory :
    Config.memSize ≤ (atI 0xFFF).i.toNat + (1 : Reg).toNat ∧ Config.memSize ≤ (atI 0x1000).i.toNat + (0 : Reg).toNat := by
  decide

theorem witness_key_skips :
    ((withV running 4 0xF).getV 4).toNat < 16 ∧
    (withV (runningWith { Params.default with keyIndex := .mask }) 4 0x10).params.keyIndex = .mask := by decide

theorem witness_key_index_error :
    16 ≤ ((withV running 4 0x10).getV 4).toNat ∧ (withV running 4 0x10).params.keyIndex = .fault := by decide

theorem witness_key_wait :
    let s := { running with wait := some 3 }
    s.schedule = [] ∧ s.run = .running ∧ s.wait = some 3 ∧ (s.setDown 7 true).pressed = true ∧ s.pressed = false := by decide

theorem witness_memory_bounds : running.mem.wf ∧ 4095 < Config.memSize ∧ Config.memSize ≤ 4096 :=
  ⟨State.wf_reset_mem, by decide, by decide⟩

theorem witness_instruction_frame : running.mem.wf ∧ ∃ t, exec (.ldB 0) running = .next t := ⟨State.wf_reset_mem, _, rfl⟩

theorem witness_listed_errors : ∃ t, running.run ≠ .faulted ∧ exec .ret running = .next t ∧ t.run = .faulted :=
  ⟨_, by decide, rfl, by decide⟩

theorem witness_sound_timer : ∃ t, exec (.ldStVx 1) running = .next t := ⟨_, rfl⟩

/-- Reset meets the invariant, and a key event is a step from there. -/
theorem witness_invariant : ∃ t, State.Inv { State.reset with schedule := [.setDown 1 true] } ∧
    step { State.reset with schedule := [.setDown 1 true] } = .next t :=
  ⟨_, ⟨State.wf_reset_mem, Grid.sized_blank _ _, by decide, by decide, by decide,
    fun _ => ⟨rfl, rfl, rfl, rfl, rfl, rfl, rfl, rfl, rfl⟩⟩, rfl⟩

theorem witness_any_step : ∃ t, step (atWord 0x6005) = .next t := ⟨_, rfl⟩

/-- One transition of each kind, and inputs that are not admitted. -/
theorem witness_transitions :
    (∃ t, step { State.reset with schedule := [.host (.loadProgram [])] } = .next t) ∧
    (∃ t, step { running with schedule := [.host (.loadProgram [])] } = .next t) ∧
    (∃ t, step { running with run := .paused, schedule := [.host (.executeRaw 0x8008)] } = .next t) ∧
    (∃ t, step { running with run := .paused, wait := some 3, schedule := [.host (.executeRaw 0x8008)] } = .next t) ∧
    (∃ t, step { running with schedule := [.host .pause] } = .next t) ∧
    (∃ t, step { running with run := .loaded, schedule := [.host .stepOneCycle] } = .next t) ∧
    (∃ t, step (atWord 0x00EE) = .next t) :=
  ⟨⟨_, rfl⟩, ⟨_, rfl⟩, ⟨_, rfl⟩, ⟨_, rfl⟩, ⟨_, rfl⟩, ⟨_, rfl⟩, ⟨_, rfl⟩⟩

theorem witness_faulted_steps :
    (∃ t, step { running with run := .faulted, schedule := [.setDown 1 true] } = .next t) ∧
    (∃ t, step { running with run := .faulted, schedule := [.host .stop] } = .next t) := ⟨⟨_, rfl⟩, ⟨_, rfl⟩⟩

theorem witness_unadmitted :
    running.run ≠ .idle ∧ running.run ≠ .loaded ∧ State.reset.run ≠ .running ∧ running.run ≠ .paused ∧
    { running with run := .paused, wait := some 3 }.wait ≠ none := by decide

theorem witness_play_pause_resume :
    { running with run := .loaded }.run = .loaded ∧ running.run = .running ∧ { running with run := .paused }.run = .paused :=
  by decide

theorem witness_load_program :
    State.reset.run = .idle ∧ State.reset.mem.wf ∧ (List.replicate 3584 (0x12 : Byte)).length ≤ 3584 ∧
    3584 < (List.replicate 3585 (0x12 : Byte)).length :=
  ⟨rfl, State.wf_reset_mem, by rw [List.length_replicate], by rw [List.length_replicate]; decide⟩

/-- Loaded, at a word. -/
def loadedAt (w : Nat) : State := { atWord w with run := .loaded }

/-- Loaded at ORIGIN, refusing unknown words. -/
def refusing : State := { runningWith { Params.default with unknownWord := .refuse } with run := .loaded }

/-- An instruction that completes, one that faults, one that waits; an unknown word logged, and one refused. -/
theorem witness_step_one_cycle_fetches :
    (Fetchable (loadedAt 0x6105) ∧ MayStep (loadedAt 0x6105) ∧ (loadedAt 0x6105).wait = none ∧
      wordAtPc (loadedAt 0x6105) = 0x6105) ∧
    (Fetchable (loadedAt 0x00EE) ∧ wordAtPc (loadedAt 0x00EE) = 0x00EE) ∧
    (Fetchable (loadedAt 0xF30A) ∧ wordAtPc (loadedAt 0xF30A) = 0xF30A) ∧
    (Fetchable (loadedAt 0x5121) ∧ wordAtPc (loadedAt 0x5121) = 0x5121 ∧ (loadedAt 0x5121).params.unknownWord = .nop) ∧
    (Fetchable refusing ∧ MayStep refusing ∧ refusing.wait = none ∧ wordAtPc refusing = 0x0000 ∧
      refusing.params.unknownWord = .refuse) :=
  ⟨⟨⟨by decide, by decide⟩, .inl rfl, rfl, by decide⟩, ⟨⟨by decide, by decide⟩, by decide⟩,
    ⟨⟨by decide, by decide⟩, by decide⟩, ⟨⟨by decide, by decide⟩, by decide, rfl⟩,
    ⟨by decide, by decide⟩, .inl rfl, rfl, by decide, rfl⟩

/-- The three fetch errors of a host step. -/
theorem witness_step_one_cycle_fetch_errors :
    (let s := { running with run := .paused, pc := 0xFFF }
     MayStep s ∧ s.wait = none ∧ MisalignedPc s) ∧
    (let s := { running with run := .paused, pc := 0x1000 }
     MayStep s ∧ s.wait = none ∧ ¬MisalignedPc s ∧ Config.memSize ≤ s.pc.toNat) ∧
    (let s := { runningWith oddAllowed with run := .paused, pc := 0xFFF }
     MayStep s ∧ s.wait = none ∧ ¬MisalignedPc s ∧ s.pc.toNat + 1 = Config.memSize) :=
  ⟨⟨.inr rfl, rfl, by decide, by decide⟩, ⟨.inr rfl, rfl, fun h => absurd h.2 (by decide), by decide⟩,
    .inr rfl, rfl, fun h => absurd h.1 (by decide), by decide⟩

theorem witness_step_one_cycle :
    (∃ s t, MayStep s ∧ s.wait = none ∧ cycle s = .next t) ∧
    (let s := { running with run := .paused, wait := some 3, pressed := true }
     s.run = .paused ∧ s.wait = some 3 ∧ s.pressed = true) ∧
    (let s := { running with run := .paused, wait := some 3 }
     s.run = .paused ∧ s.wait = some 3 ∧ s.pressed = false) :=
  ⟨⟨{ running with run := .loaded }, _, .inl rfl, rfl, rfl⟩, by decide, by decide⟩

/-- A word that faults, one that waits, one that completes; an unknown word logged, and one refused. -/
theorem witness_execute_raw :
    let s := { running with run := .paused }
    s.run = .paused ∧ s.wait = none ∧
    (∃ t, decodeWord 0x00EE = .ok .ret ∧ exec .ret s = .next t ∧ t.run = .faulted) ∧
    (∃ t, decodeWord 0xF30A = .ok (.ldVxK 3) ∧ exec (.ldVxK 3) s = .next t ∧ t.run ≠ .faulted ∧ t.wait ≠ none) ∧
    (∃ t, decodeWord 0x6105 = .ok (.ldImm 1 5) ∧ exec (.ldImm 1 5) s = .next t ∧ t.run ≠ .faulted ∧ t.wait = none) ∧
    decodeWord 0x8008 = .error (.unknownWord 0x8008) ∧ s.params.unknownWord = .nop ∧
    refusing.run = .loaded ∧ refusing.wait = none ∧ refusing.params.unknownWord = .refuse :=
  ⟨rfl, rfl, ⟨_, by decide, rfl, by decide⟩, ⟨_, by decide, rfl, by decide, by decide⟩,
    ⟨_, by decide, rfl, by decide, by decide⟩, by decide, rfl, rfl, rfl, rfl⟩

/-- A down edge, and an event that is none. -/
theorem witness_set_down :
    let s := { running with schedule := [.setDown 0xF true] }
    let t := { running.setDown 0xF true with schedule := [.setDown 0xF true] }
    s.schedule = .setDown 0xF true :: [] ∧ s.isDown 0xF = false ∧ t.schedule = .setDown 0xF true :: [] ∧
    t.isDown 0xF = true := by decide

theorem witness_next_input :
    { running with schedule := [.core] }.schedule = .core :: [] ∧
    { running with schedule := [.host .pause] }.schedule = .host .pause :: [] ∧
    { running with schedule := [.setDown 2 false] }.schedule = .setDown 2 false :: [] := by decide

end Sys2Proof.Tests
end

section
/-!
PROOFS. What each layer of a step can do, said once as an inversion lemma (40_cycle.md R120 to R130; 60_exceptions.md R320 to R326);
from it, that no step changes the parameters (00_scope.md R7; 10_state.md R36). Then the reset table of the state a machine is
created in (10_state.md R37; 70_reset_and_hazards.md R350).
-/

namespace Sys2Proof.Machine

/-! ## Inversion: where a next state comes from -/

/-- The rest of a cycle follows a next state of step 3 (R124, R125, R130). -/
theorem finishCycle_cases {o : Host.Outcome State Fault Refusal} {t : State} (h : finishCycle o = .next t) :
    ∃ u, o = .next u ∧ t = u.afterExecute := by
  cases o with
  | next u => exact ⟨u, rfl, (next_inj h).symm⟩
  | fault f => cases h
  | refused r => cases h

/-- Pausing follows a next state of the cycle the host asked for (R324, R325). -/
theorem pauseOutcome_cases {o : Host.Outcome State Fault Refusal} {t : State} (h : pauseOutcome o = .next t) :
    ∃ u, o = .next u ∧ t = u.pauseAfterStep := by
  cases o with
  | next u => exact ⟨u, rfl, (next_inj h).symm⟩
  | fault f => cases h
  | refused r => cases h

/-- An unknown word has a next state under UNKNOWN_WORD_POLICY = nop alone: the word is logged (R129). -/
theorem execUnknown_cases {w : Word} {s t : State} (h : execUnknown w s = .next t) :
    s.params.unknownWord = .nop ∧ t = s.logUnknown w := by
  unfold execUnknown at h
  cases hp : s.params.unknownWord with
  | nop => rw [hp] at h; exact ⟨rfl, (next_inj h).symm⟩
  | refuse => rw [hp] at h; cases h

/-- Steps 2 to 5 run the instruction the word is, or log an unknown word (R122, R123, R129). -/
theorem runWord_cases {w : Word} {s t : State} (h : runWord w s = .next t) :
    (∃ i u, decodeWord w = .ok i ∧ exec i s = .next u ∧ t = u.afterExecute) ∨
    (∃ e, decodeWord w = .error e ∧ s.params.unknownWord = .nop ∧ t = (s.logUnknown w).afterExecute) := by
  unfold runWord at h
  cases hd : decodeWord w with
  | ok i =>
    rw [hd] at h
    obtain ⟨u, hu, rfl⟩ := finishCycle_cases h
    exact .inl ⟨i, u, rfl, hu, rfl⟩
  | error e =>
    rw [hd] at h
    obtain ⟨u, hu, rfl⟩ := finishCycle_cases h
    obtain ⟨hp, rfl⟩ := execUnknown_cases hu
    exact .inr ⟨e, rfl, hp, rfl⟩

/-- A cycle fails in its fetch, or runs the word it fetched (R120, R121). -/
theorem cycle_cases {s t : State} (h : cycle s = .next t) :
    (∃ e, fetch s = .error e ∧ t = s.raise e none) ∨ (∃ w, fetch s = .ok w ∧ runWord w s = .next t) := by
  unfold cycle at h
  cases hf : fetch s with
  | error e => rw [hf] at h; exact .inl ⟨e, rfl, (next_inj h).symm⟩
  | ok w => rw [hf] at h; exact .inr ⟨w, rfl, h⟩

/-- A CORE step is a cycle or the completion of a key wait, in Running only (R320, R279). -/
theorem coreStep_cases {s t : State} (h : coreStep s = .next t) :
    s.run = .running ∧
    ((s.wait = none ∧ cycle s = .next t) ∨ (∃ x, s.wait = some x ∧ s.pressed = true ∧ t = s.completeWait x)) := by
  unfold coreStep at h
  split at h
  case h_1 hr =>
    refine ⟨hr, ?_⟩
    split at h
    case h_1 hw => exact .inl ⟨hw, h⟩
    case h_2 x hw =>
      split_ifs at h with hp
      exact .inr ⟨x, hw, hp, (next_inj h).symm⟩
  all_goals cases h

/-- stepOneCycle is ignored where it is not admitted; else it is a cycle, or the completion of a key wait, and then Paused (R324). -/
theorem hostStepOneCycle_cases {s t : State} (h : hostStepOneCycle s = .next t) :
    (s.steppable = false ∧ t = s) ∨
    (s.steppable = true ∧ s.wait = none ∧ ∃ u, cycle s = .next u ∧ t = u.pauseAfterStep) ∨
    (s.steppable = true ∧ ∃ x, s.wait = some x ∧ s.pressed = true ∧ t = (s.completeWait x).pauseAfterStep) := by
  unfold hostStepOneCycle at h
  cases hs : s.steppable with
  | false => rw [hs] at h; exact .inl ⟨rfl, (next_inj h).symm⟩
  | true =>
    rw [hs, if_pos rfl] at h
    split at h
    case h_1 hw => exact .inr (.inl ⟨rfl, hw, pauseOutcome_cases h⟩)
    case h_2 x hw =>
      split_ifs at h with hp
      exact .inr (.inr ⟨rfl, x, hw, hp, (next_inj h).symm⟩)

/-- executeRawInstruction is ignored where it is not admitted; else it is steps 2 to 5 on the word and then Paused (R325). -/
theorem hostExecuteRaw_cases {w : Word} {s t : State} (h : hostExecuteRaw w s = .next t) :
    ((s.steppable && s.wait.isNone) = false ∧ t = s) ∨
    ((s.steppable && s.wait.isNone) = true ∧ ∃ u, runWord w s = .next u ∧ t = u.pauseAfterStep) := by
  unfold hostExecuteRaw at h
  cases hs : s.steppable && s.wait.isNone with
  | false => rw [hs] at h; exact .inl ⟨rfl, (next_inj h).symm⟩
  | true => rw [hs] at h; exact .inr ⟨rfl, pauseOutcome_cases h⟩

/-- A step is the CORE's own when no input is to come, else the one its next input stands for (R320). -/
theorem step_cases {s t : State} (h : step s = .next t) :
    (s.schedule = [] ∧ coreStep s = .next t) ∨
    (∃ e rest, s.schedule = e :: rest ∧ eventStep e s.dequeue = .next t) := by
  unfold step nextStep at h
  cases hs : s.schedule with
  | nil => rw [hs] at h; exact .inl ⟨rfl, h⟩
  | cons e rest => rw [hs] at h; exact .inr ⟨e, rest, rfl, h⟩

/-! ## The parameters (R7, R36) -/

@[simp] theorem State.endCycle_params (s : State) : s.endCycle.params = s.params := rfl

@[simp] theorem State.completeWait_params (s : State) (x : Reg) : (s.completeWait x).params = s.params := rfl

@[simp] theorem State.setDown_params (s : State) (k : Nibble) (b : Bool) : (s.setDown k b).params = s.params := rfl

@[simp] theorem State.afterExecute_params (s : State) : s.afterExecute.params = s.params := by
  unfold State.afterExecute; split_ifs <;> rfl

@[simp] theorem State.pauseAfterStep_params (s : State) : s.pauseAfterStep.params = s.params := by
  unfold State.pauseAfterStep; split_ifs <;> rfl

@[simp] theorem State.play_params (s : State) : s.play.params = s.params := by
  unfold State.play; split_ifs <;> rfl

@[simp] theorem State.pause_params (s : State) : s.pause.params = s.params := by
  unfold State.pause; split_ifs <;> rfl

@[simp] theorem State.resume_params (s : State) : s.resume.params = s.params := by
  unfold State.resume; split_ifs <;> rfl

@[simp] theorem State.loadProgram_params (s : State) (bytes : List Byte) : (s.loadProgram bytes).params = s.params := by
  unfold State.loadProgram; split_ifs <;> rfl

theorem runWord_params {w : Word} {s t : State} (h : runWord w s = .next t) : t.params = s.params := by
  obtain ⟨i, u, -, hu, rfl⟩ | ⟨e, -, -, rfl⟩ := runWord_cases h
  · exact u.afterExecute_params.trans (exec_step3 hu).params
  · exact (s.logUnknown w).afterExecute_params.trans (s.logUnknown_params w)

theorem cycle_params {s t : State} (h : cycle s = .next t) : t.params = s.params := by
  obtain ⟨e, -, rfl⟩ | ⟨w, -, hw⟩ := cycle_cases h
  · exact s.raise_params e none
  · exact runWord_params hw

theorem coreStep_params {s t : State} (h : coreStep s = .next t) : t.params = s.params := by
  obtain ⟨-, ⟨-, hc⟩ | ⟨x, -, -, rfl⟩⟩ := coreStep_cases h
  · exact cycle_params hc
  · exact s.completeWait_params x

theorem hostStepOneCycle_params {s t : State} (h : hostStepOneCycle s = .next t) : t.params = s.params := by
  obtain ⟨-, rfl⟩ | ⟨-, -, u, hu, rfl⟩ | ⟨-, x, -, -, rfl⟩ := hostStepOneCycle_cases h
  · rfl
  · exact u.pauseAfterStep_params.trans (cycle_params hu)
  · exact (s.completeWait x).pauseAfterStep_params.trans (s.completeWait_params x)

theorem hostExecuteRaw_params {w : Word} {s t : State} (h : hostExecuteRaw w s = .next t) : t.params = s.params := by
  obtain ⟨-, rfl⟩ | ⟨-, u, hu, rfl⟩ := hostExecuteRaw_cases h
  · rfl
  · exact u.pauseAfterStep_params.trans (runWord_params hu)

theorem hostStep_params {op : HostOp} {s t : State} (h : hostStep op s = .next t) : t.params = s.params := by
  cases op with
  | loadProgram bytes => cases next_inj h; exact s.loadProgram_params bytes
  | play => cases next_inj h; exact s.play_params
  | pause => cases next_inj h; exact s.pause_params
  | resume => cases next_inj h; exact s.resume_params
  | stop => cases next_inj h; exact s.fullReset_params
  | stepOneCycle => exact hostStepOneCycle_params h
  | executeRaw w => exact hostExecuteRaw_params h
  | getFramebufferView => cases next_inj h; rfl
  | getInputStateHandle => cases next_inj h; rfl

theorem eventStep_params {e : Event} {s t : State} (h : eventStep e s = .next t) : t.params = s.params := by
  cases e with
  | core => exact coreStep_params h
  | host op => exact hostStep_params h
  | setDown k b => cases next_inj h; exact s.setDown_params k b

/-- Settles O48: each layer of a step, from the instruction up to the scheduled input, keeps the parameters. -/
theorem parametersNeverChange : Obligations.ParametersNeverChange := by
  intro s t h
  obtain ⟨-, hc⟩ | ⟨e, rest, -, he⟩ := step_cases h
  · exact coreStep_params hc
  · exact (eventStep_params he).trans s.dequeue_params

/-! ## The reset table (R37, R350) -/

/-- FONT_LARGE at 0x050..0x0EF (R71). -/
theorem resetByte_fontLarge {a : Nat} (hlo : 0x50 ≤ a) (hhi : a < 0xF0) : resetByte a = Config.fontLarge (a - 0x50) := by
  rw [resetByte, if_neg (not_lt.2 hlo), if_pos hhi]

/-- 0 past both fonts (R71). -/
theorem resetByte_past_fonts {a : Nat} (h : 0xF0 ≤ a) : resetByte a = 0 := by
  have hlo : ¬a < Config.fontLargeBase := not_lt.2 (le_trans (by decide) h)
  rw [resetByte, if_neg hlo, if_neg (not_lt.2 h)]

/-- The state a machine is created in has the values of the table, with any time of the reset and whatever the model's own counts,
sink and schedule hold: the parameters decide the small font alone. -/
theorem resetTable_created (p : Params) (time ticks draws : Nat) (diag : List Diagnostic) (schedule : List Event) :
    ResetTable time { State.created p with
      dtLast := time, stLast := time, tickCount := ticks, rngCount := draws, diag := diag, schedule := schedule } := by
  have small : ∀ (a : Nat) (h : a < 80), (Memory.reset p.fontSmall).read a = p.fontSmall[a] := fun a h => by
    rw [Memory.read_reset, dif_pos h]
  have large : ∀ a, 0x50 ≤ a → a < 0xF0 → (Memory.reset p.fontSmall).read a = Config.fontLarge (a - 0x50) :=
    fun a hlo hhi => by rw [Memory.read_reset, dif_neg (not_lt.2 hlo), resetByte_fontLarge hlo hhi]
  have zero : ∀ a, 0xF0 ≤ a → a < 4096 → (Memory.reset p.fontSmall).read a = 0 := fun a hlo _ => by
    rw [Memory.read_reset, dif_neg (by omega), resetByte_past_fonts hlo]
  refine ⟨fun r => ?_, rfl, rfl, rfl, rfl, rfl, rfl, rfl, small, large, zero, rfl, Grid.sized_blank 64 32,
    Grid.pixel_blank 64 32, fun k => ?_, rfl, rfl, rfl, rfl, rfl, rfl⟩
  · exact Vector.getElem_replicate r.isLt
  · exact Vector.getElem_replicate k.isLt

/-- With the defaults of R7 the created state is `State.reset`, whose memory lists nothing. -/
theorem State.created_default : State.created Params.default = State.reset := by
  have hmem : Memory.reset Params.default.fontSmall = [] := Memory.reset_default
  rw [State.created, hmem]
  rfl

/-- Settles O50: the created state is the table's at time 0, and the default small font leaves memory as reset has it. -/
theorem createdStateIsReset : Obligations.CreatedStateIsReset :=
  ⟨State.created_default, fun p => ⟨resetTable_created p 0 0 0 [] [], rfl, rfl, rfl, rfl, rfl⟩⟩

end Sys2Proof.Machine
end

section
/-!
PROOFS. The frame of every instruction: which parts each update of the state leaves alone, said once per update, and from it that
step 3 changes only the parts the spec names for the instruction (10_state.md R22 to R35; 20_memory.md R67; 40_cycle.md R126).
-/

namespace Sys2Proof.Machine

/-! ## Frames compose -/

theorem Part.same_refl (p : Part) (s : State) : p.same s s := by cases p <;> rfl

theorem Part.same_trans {p : Part} {s t u : State} (h : p.same s t) (h' : p.same t u) : p.same s u := by
  cases p <;> exact Eq.trans h' h

theorem OnlyChanges.refl (parts : List Part) (s : State) : OnlyChanges parts s s := fun p _ => p.same_refl s

theorem OnlyChanges.trans {parts : List Part} {s t u : State} (h : OnlyChanges parts s t) (h' : OnlyChanges parts t u) :
    OnlyChanges parts s u := fun p hp => Part.same_trans (h p hp) (h' p hp)

theorem OnlyChanges.mono {parts parts' : List Part} {s t : State} (hsub : parts ⊆ parts') (h : OnlyChanges parts s t) :
    OnlyChanges parts' s t := fun p hp => h p fun hmem => hp (hsub hmem)

/-! ## The frame of each update -/

section
variable {parts : List Part}

theorem onlyChanges_setV {r : Reg} (h : .v r ∈ parts) (s : State) (b : Byte) : OnlyChanges parts s (s.setV r b) := by
  intro p hp
  cases p
  case v q =>
    have hne : q ≠ r := fun e => hp (e ▸ h)
    exact (s.getV_setV r q b).trans (if_neg hne)
  all_goals rfl

theorem onlyChanges_setI (h : .i ∈ parts) (s : State) (a : Word) : OnlyChanges parts s (s.setI a) := by
  intro p hp
  cases p
  case i => exact absurd h hp
  all_goals rfl

theorem onlyChanges_setPc (h : .pc ∈ parts) (s : State) (a : Word) : OnlyChanges parts s (s.setPc a) := by
  intro p hp
  cases p
  case pc => exact absurd h hp
  all_goals rfl

theorem onlyChanges_setStack (h : .stack ∈ parts) (s : State) (l : List Word) : OnlyChanges parts s (s.setStack l) := by
  intro p hp
  cases p
  case stack => exact absurd h hp
  all_goals rfl

theorem onlyChanges_setDt (h : .dt ∈ parts) (s : State) (b : Byte) : OnlyChanges parts s (s.setDt b) := by
  intro p hp
  cases p
  case dt => exact absurd h hp
  all_goals rfl

theorem onlyChanges_setSt (h : .st ∈ parts) (s : State) (b : Byte) : OnlyChanges parts s (s.setSt b) := by
  intro p hp
  cases p
  case st => exact absurd h hp
  all_goals rfl

theorem onlyChanges_setFb (h : .fb ∈ parts) (s : State) (g : Grid) : OnlyChanges parts s (s.setFb g) := by
  intro p hp
  cases p
  case fb => exact absurd h hp
  all_goals rfl

theorem onlyChanges_setResolution (hres : .res ∈ parts) (hfb : .fb ∈ parts) (s : State) (r : Resolution) :
    OnlyChanges parts s (s.setResolution r) := by
  intro p hp
  cases p
  case res => exact absurd hres hp
  case fb => exact absurd hfb hp
  all_goals rfl

/-- A byte written changes its own address alone, in a canonical memory (R61). -/
theorem onlyChanges_write {a : Nat} (h : .byteAt a ∈ parts) {s : State} (hm : s.mem.wf) (b : Byte) :
    OnlyChanges parts s (s.setMem (s.mem.write a b)) := by
  intro p hp
  cases p
  case byteAt c =>
    have hne : c ≠ a := fun e => hp (e ▸ h)
    exact (Memory.read_write hm a c b).trans (if_neg hne)
  all_goals rfl

/-- A fault entry (R301). -/
theorem onlyChanges_raise (h : faultParts ⊆ parts) (s : State) (e : FatalError) (w : Option Word) :
    OnlyChanges parts s (s.raise e w) := by
  intro p hp
  cases p
  case run => exact absurd (h (by simp [faultParts])) hp
  case fault => exact absurd (h (by simp [faultParts])) hp
  all_goals rfl

theorem onlyChanges_skipIf (h : .pc ∈ parts) (s : State) (c : Bool) : OnlyChanges parts s (s.skipIf c) := by
  rw [State.skipIf_eq]; exact onlyChanges_setPc h s _

/-- A jump that also replaces the stack, as RET and CALL make it. -/
theorem onlyChanges_setStack_jump (hstack : .stack ∈ parts) (hpc : .pc ∈ parts) (s : State) (l : List Word) (a : Word) :
    OnlyChanges parts s ((s.setStack l).jump a) :=
  (onlyChanges_setStack hstack s l).trans (onlyChanges_setPc hpc _ _)

/-- VF and then the result register (R211). -/
theorem onlyChanges_flagThenResult {x : Reg} (hflag : .v Reg.flag ∈ parts) (hx : .v x ∈ parts) (s : State) (flag : Byte)
    (f : State → Byte) : OnlyChanges parts s (flagThenResult s x flag f) := by
  rw [flagThenResult_eq]
  exact (onlyChanges_setV hflag s _).trans (onlyChanges_setV hx _ _)

/-- A random byte drawn counts one more draw (R226). -/
theorem onlyChanges_drawByte (h : .rngCount ∈ parts) (s : State) : OnlyChanges parts s s.drawByte.2 := by
  intro p hp
  cases p
  case rngCount => exact absurd h hp
  all_goals rfl

/-- A key wait begun (R278). -/
theorem onlyChanges_beginWait (hpressed : .pressed ∈ parts) (hwait : .wait ∈ parts) (s : State) (x : Reg) :
    OnlyChanges parts s { s with pressed := false, wait := some x } := by
  intro p hp
  cases p
  case pressed => exact absurd hpressed hp
  case wait => exact absurd hwait hp
  all_goals rfl

end

/-! ## The frame of each block operation -/

theorem mem_bytesFrom {p : Part} {a n : Nat} : p ∈ bytesFrom a n ↔ ∃ k < n, .byteAt (a + k) = p := by
  simp [bytesFrom]

theorem byteAt_mem_bytesFrom (a n : Nat) : .byteAt a ∈ bytesFrom a (n + 1) := mem_bytesFrom.2 ⟨0, n.succ_pos, rfl⟩

theorem bytesFrom_succ_subset (a n : Nat) : bytesFrom (a + 1) n ⊆ bytesFrom a (n + 1) := by
  intro p hp
  obtain ⟨k, hk, rfl⟩ := mem_bytesFrom.1 hp
  exact mem_bytesFrom.2 ⟨k + 1, by omega, by rw [show a + (k + 1) = a + 1 + k by omega]⟩

/-- A block store changes the bytes it stores, and may enter Faulted (R64, R67). -/
theorem onlyChanges_storeBytes {parts : List Part} {ins : Instr} {a : Nat} {bs : List Byte} {s : State} (hm : s.mem.wf)
    (hbytes : bytesFrom a bs.length ⊆ parts) (hfault : faultParts ⊆ parts) :
    OnlyChanges parts s (storeBytes ins a bs s) := by
  induction bs generalizing a s with
  | nil => exact .refl parts s
  | cons b bs ih =>
    unfold storeBytes State.memWrite
    split_ifs with ha
    · have hwrite := onlyChanges_write (hbytes (byteAt_mem_bytesFrom a _)) hm b
      exact hwrite.trans (ih (Memory.wf_write hm ha b) (List.Subset.trans (bytesFrom_succ_subset a _) hbytes))
    · exact onlyChanges_raise hfault s _ _

/-- A block load changes the registers it loads, and may enter Faulted (R251). -/
theorem onlyChanges_loadRegs {parts : List Part} {ins : Instr} {a : Nat} {rs : List Reg} {s : State}
    (hregs : rs.map .v ⊆ parts) (hfault : faultParts ⊆ parts) : OnlyChanges parts s (loadRegs ins a rs s) := by
  induction rs generalizing a s with
  | nil => exact .refl parts s
  | cons r rs ih =>
    rw [List.map_cons, List.cons_subset] at hregs
    unfold loadRegs State.memRead
    split_ifs
    · exact (onlyChanges_setV hregs.1 s _).trans (ih hregs.2)
    · exact onlyChanges_raise hfault s _ _

/-- A draw changes the pixels and VF, and may enter Faulted (R161, R162). -/
theorem onlyChanges_drawParts {parts : List Part} {ins : Instr} {ps : List SpritePart} {col : Bool} {s : State}
    (hfb : .fb ∈ parts) (hflag : .v Reg.flag ∈ parts) (hfault : faultParts ⊆ parts) :
    OnlyChanges parts s (drawParts ins ps col s) := by
  induction ps generalizing col s with
  | nil => exact onlyChanges_setV hflag s _
  | cons p ps ih =>
    unfold drawParts State.memRead
    split_ifs
    · exact (onlyChanges_setFb hfb s _).trans ih
    · exact onlyChanges_raise hfault s _ _

/-! ## The frame of each instruction -/

@[simp] theorem length_bcdDigits (v : Byte) : (bcdDigits v).length = 3 := rfl

/-- Step 3 changes only the parts the spec names for the instruction. Only a store needs memory to be canonical: elsewhere a byte
could read otherwise than before. -/
theorem exec_frame {i : Instr} {s t : State} (hm : s.mem.wf) (h : exec i s = .next t) :
    OnlyChanges (mayChange s i) s t := by
  cases i with
  | cls | scd n | scr | scl => cases next_inj h; exact onlyChanges_setFb (by simp [mayChange]) s _
  | low | high => cases next_inj h; exact onlyChanges_setResolution (by simp [mayChange]) (by simp [mayChange]) s _
  | ret =>
    rw [show exec .ret s = _ from execRet_eq s] at h; cases next_inj h
    cases s.stack with
    | nil => exact onlyChanges_raise (by simp [mayChange]) s _ _
    | cons a l => exact onlyChanges_setStack_jump (by simp [mayChange]) (by simp [mayChange]) s l a
  | call nnn =>
    rw [show exec (.call nnn) s = _ from execCall_eq nnn s] at h; cases next_inj h
    split_ifs
    · exact onlyChanges_raise (by simp [mayChange]) s _ _
    · exact onlyChanges_setStack_jump (by simp [mayChange]) (by simp [mayChange]) s _ _
  | jp nnn | jpV0 nnn => cases next_inj h; exact onlyChanges_setPc (by simp [mayChange]) s _
  | seImm x nn | sneImm x nn | seReg x y | sneReg x y =>
    cases next_inj h; exact onlyChanges_skipIf (by simp [mayChange]) s _
  | skp x =>
    rw [show exec (.skp x) s = _ from execSkp_eq x s] at h; cases next_inj h
    split_ifs
    · exact onlyChanges_raise (by simp [mayChange]) s _ _
    · exact onlyChanges_skipIf (by simp [mayChange]) s _
  | sknp x =>
    rw [show exec (.sknp x) s = _ from execSknp_eq x s] at h; cases next_inj h
    split_ifs
    · exact onlyChanges_raise (by simp [mayChange]) s _ _
    · exact onlyChanges_skipIf (by simp [mayChange]) s _
  | ldImm x nn | addImm x nn | ldReg x y | orReg x y | andReg x y | xorReg x y | ldVxDt x =>
    cases next_inj h; exact onlyChanges_setV (by simp [mayChange]) s _
  | addReg x y | sub x y | shr x y | subn x y | shl x y =>
    cases next_inj h; exact onlyChanges_flagThenResult (by simp [mayChange]) (by simp [mayChange]) s _ _
  | rnd x nn =>
    cases next_inj h
    exact (onlyChanges_drawByte (by simp [mayChange]) s).trans (onlyChanges_setV (by simp [mayChange]) _ _)
  | ldI nnn | addI x | ldF x | ldHf x => cases next_inj h; exact onlyChanges_setI (by simp [mayChange]) s _
  | ldDtVx x => cases next_inj h; exact onlyChanges_setDt (by simp [mayChange]) s _
  | ldStVx x => cases next_inj h; exact onlyChanges_setSt (by simp [mayChange]) s _
  | ldVxK x => cases next_inj h; exact onlyChanges_beginWait (by simp [mayChange]) (by simp [mayChange]) s x
  | drw x y n | drw16 x y =>
    cases next_inj h; exact onlyChanges_drawParts (by simp [mayChange]) (by simp [mayChange]) (by simp [mayChange])
  | ldB x | ldMemVx x => cases next_inj h; exact onlyChanges_storeBytes hm (by simp [mayChange]) (by simp [mayChange])
  | ldVxMem x => cases next_inj h; exact onlyChanges_loadRegs (by simp [mayChange, regsTo]) (by simp [mayChange])

/-- Settles O42: the frame of each instruction from the frames of the updates it makes. -/
theorem instructionFrame : Obligations.InstructionFrame := fun _ _ _ hm h => exec_frame hm h

end Sys2Proof.Machine
end

section
/-!
PROOFS. The invariant of every reachable state (10_state.md R28, R32, R35; 20_memory.md R60; 70_reset_and_hazards.md R355): the created
state meets it, and every step keeps it. Between the steps of a cycle the host asked for, the run state is still the one it was
asked in, so the cycle keeps a weaker predicate, from which Running and Paused regain the invariant.
-/

namespace Sys2Proof.Machine

/-! ## The created state -/

theorem State.inv_created (p : Params) : (State.created p).Inv := by
  have record : (State.created p).fault.isSome ↔ (State.created p).run = .faulted :=
    ⟨fun h => absurd h Bool.false_ne_true, fun h => absurd h (by decide : RunState.idle ≠ .faulted)⟩
  have wait : (State.created p).wait.isSome → (State.created p).run = .running ∨ (State.created p).run = .paused :=
    fun h => absurd h Bool.false_ne_true
  exact ⟨Memory.wf_reset _, Grid.sized_blank _ _, Nat.zero_le _, record, wait,
    fun _ => ⟨rfl, rfl, rfl, rfl, rfl, rfl, rfl, rfl, rfl⟩⟩

/-- Settles O47: with the default parameters the created state is `State.reset`. -/
theorem resetMeetsInvariant : Obligations.ResetMeetsInvariant :=
  ⟨State.created_default ▸ State.inv_created Params.default, State.inv_created⟩

/-! ## Within a cycle -/

/-- What holds between the steps of a cycle asked for in the run state `r`: the invariant, but that a wait is pending in `r` itself,
and that the run state is `r` until a fault entry. -/
structure MidCycle (r : RunState) (s : State) : Prop where
  /-- Memory is canonical. -/
  mem_wf : s.mem.wf
  /-- The grid has the size of the resolution. -/
  screen : ScreenSized s
  /-- The stack is within STACK_DEPTH. -/
  stack : s.stack.length ≤ s.params.stackDepth
  /-- The fault record stands exactly in Faulted. -/
  record : s.fault.isSome ↔ s.run = .faulted
  /-- No fault entry, no change of the run state. -/
  run : s.run = r ∨ s.run = .faulted
  /-- A fatal error leaves no wait pending. -/
  wait : s.wait.isSome → s.run = r

theorem State.Inv.midCycle {s : State} (h : s.Inv) : MidCycle s.run s := by
  obtain ⟨hmem, hscreen, hstack, hrecord, -, -⟩ := h
  exact ⟨hmem, hscreen, hstack, hrecord, .inl rfl, fun _ => rfl⟩

/-- Only LD Vx, K begins a wait, and it raises no fatal error (R278). -/
theorem exec_wait {i : Instr} {s t : State} (hm : s.mem.wf) (h : exec i s = .next t) :
    t.wait = s.wait ∨ t.run = s.run := by
  cases i
  case ldVxK x => cases next_inj h; exact .inr rfl
  all_goals exact .inl (exec_frame hm h .wait (by simp [mayChange, faultParts, bytesFrom, regsTo]))

theorem exec_midCycle {i : Instr} {s t : State} (hs : s.Inv) (hw : s.wait = none) (h : exec i s = .next t) :
    MidCycle s.run t := by
  obtain ⟨hmem, hscreen, hstack, hrecord, -, -⟩ := hs
  have keeps := exec_step3 h
  have wait : t.wait.isSome → t.run = s.run := fun ht => by
    rcases exec_wait hmem h with hkept | hrun
    · rw [hkept, hw] at ht; exact absurd ht Bool.false_ne_true
    · exact hrun
  rcases keeps.control with ⟨hrun, hfault⟩ | ⟨hrun, e, w, hfault⟩
  · exact ⟨keeps.mem_wf hmem, keeps.screen hscreen, keeps.stack hstack, by rw [hrun, hfault]; exact hrecord, .inl hrun, wait⟩
  · exact ⟨keeps.mem_wf hmem, keeps.screen hscreen, keeps.stack hstack, by simp [hrun, hfault], .inr hrun, wait⟩

/-- Steps 4 and 5 touch the timers and pc, of which `MidCycle` says nothing. -/
theorem MidCycle.endCycle {r : RunState} {s : State} (h : MidCycle r s) : MidCycle r s.endCycle :=
  ⟨h.mem_wf, h.screen, h.stack, h.record, h.run, h.wait⟩

theorem MidCycle.afterExecute {r : RunState} {s : State} (h : MidCycle r s) : MidCycle r s.afterExecute := by
  unfold State.afterExecute
  split_ifs
  · exact h
  · exact h.endCycle

theorem MidCycle.logUnknown {r : RunState} {s : State} (h : MidCycle r s) (w : Word) : MidCycle r (s.logUnknown w) :=
  ⟨h.mem_wf, h.screen, h.stack, h.record, h.run, h.wait⟩

/-- A fetch error, which ends a cycle that no wait has suspended. -/
theorem MidCycle.raise {r : RunState} {s : State} (h : MidCycle r s) (hw : s.wait = none) (e : FatalError)
    (w : Option Word) : MidCycle r (s.raise e w) :=
  ⟨h.mem_wf, h.screen, h.stack, iff_of_true rfl rfl, .inr rfl, fun ht => by simp [hw] at ht⟩

theorem MidCycle.completeWait {r : RunState} {s : State} (h : MidCycle r s) (x : Reg) : MidCycle r (s.completeWait x) :=
  ⟨h.mem_wf, h.screen, h.stack, h.record, h.run, fun ht => absurd ht Bool.false_ne_true⟩

theorem runWord_midCycle {w : Word} {s t : State} (hs : s.Inv) (hw : s.wait = none) (h : runWord w s = .next t) :
    MidCycle s.run t := by
  obtain ⟨i, u, -, hu, rfl⟩ | ⟨e, -, -, rfl⟩ := runWord_cases h
  · exact (exec_midCycle hs hw hu).afterExecute
  · exact (hs.midCycle.logUnknown w).afterExecute

theorem cycle_midCycle {s t : State} (hs : s.Inv) (hw : s.wait = none) (h : cycle s = .next t) : MidCycle s.run t := by
  obtain ⟨e, -, rfl⟩ | ⟨w, -, hr⟩ := cycle_cases h
  · exact hs.midCycle.raise hw e none
  · exact runWord_midCycle hs hw hr

/-! ## At the end of a step -/

/-- A CORE step ends Running or Faulted. -/
theorem MidCycle.inv_of_running {s : State} (h : MidCycle .running s) : s.Inv := by
  have idle : IdleIsReset s := fun hi => by rcases h.run with hr | hr <;> rw [hi] at hr <;> cases hr
  exact ⟨h.mem_wf, h.screen, h.stack, h.record, fun hw => .inl (h.wait hw), idle⟩

/-- A step the host asked for ends Paused or Faulted (R324, R325). -/
theorem MidCycle.inv_pauseAfterStep {r : RunState} {s : State} (h : MidCycle r s) (hr : r ≠ .faulted) :
    s.pauseAfterStep.Inv := by
  unfold State.pauseAfterStep
  by_cases hf : s.run = .faulted
  · rw [if_pos (beq_iff_eq.2 hf)]
    have wait : s.wait.isSome → s.run = .running ∨ s.run = .paused := fun hw => absurd ((h.wait hw).symm.trans hf) hr
    have idle : IdleIsReset s := fun hi => by rw [hf] at hi; cases hi
    exact ⟨h.mem_wf, h.screen, h.stack, h.record, wait, idle⟩
  · rw [if_neg (mt beq_iff_eq.1 hf)]
    have record : s.fault.isSome ↔ RunState.paused = .faulted := iff_of_false (mt h.record.1 hf) (by decide)
    exact ⟨h.mem_wf, h.screen, h.stack, record, fun _ => .inr rfl, nofun⟩

theorem coreStep_inv {s t : State} (hs : s.Inv) (h : coreStep s = .next t) : t.Inv := by
  obtain ⟨hrun, ⟨hw, hc⟩ | ⟨x, -, -, rfl⟩⟩ := coreStep_cases h
  · exact (hrun ▸ cycle_midCycle hs hw hc).inv_of_running
  · exact (hrun ▸ hs.midCycle.completeWait x).inv_of_running

theorem State.not_faulted_of_steppable {s : State} (h : s.steppable = true) : s.run ≠ .faulted := by
  rcases s.steppable_iff.1 h with hr | hr <;> rw [hr] <;> decide

theorem hostStepOneCycle_inv {s t : State} (hs : s.Inv) (h : hostStepOneCycle s = .next t) : t.Inv := by
  obtain ⟨-, rfl⟩ | ⟨hstep, hw, u, hu, rfl⟩ | ⟨hstep, x, -, -, rfl⟩ := hostStepOneCycle_cases h
  · exact hs
  · exact (cycle_midCycle hs hw hu).inv_pauseAfterStep (State.not_faulted_of_steppable hstep)
  · exact (hs.midCycle.completeWait x).inv_pauseAfterStep (State.not_faulted_of_steppable hstep)

theorem hostExecuteRaw_inv {w : Word} {s t : State} (hs : s.Inv) (h : hostExecuteRaw w s = .next t) : t.Inv := by
  obtain ⟨-, rfl⟩ | ⟨hadmitted, u, hu, rfl⟩ := hostExecuteRaw_cases h
  · exact hs
  · obtain ⟨hstep, hw⟩ := Bool.and_eq_true_iff.1 hadmitted
    exact (runWord_midCycle hs (Option.isNone_iff_eq_none.1 hw) hu).inv_pauseAfterStep
      (State.not_faulted_of_steppable hstep)

/-! ## The host and the keypad -/

/-- play, pause and resume move the run state between states that hold no fault record, to one that may hold a wait (R321 to R323). -/
theorem State.Inv.moveRun {s : State} (h : s.Inv) {r r' : RunState} (hr : r ≠ .faulted)
    (hr' : r' = .running ∨ r' = .paused) : State.Inv (if s.run == r then { s with run := r' } else s) := by
  split_ifs with hrun
  · obtain ⟨hmem, hscreen, hstack, hrecord, -, -⟩ := h
    have hbefore : s.run ≠ .faulted := beq_iff_eq.1 hrun ▸ hr
    have hafter : r' ≠ .faulted ∧ r' ≠ .idle := by rcases hr' with rfl | rfl <;> decide
    exact ⟨hmem, hscreen, hstack, iff_of_false (mt hrecord.1 hbefore) hafter.1, fun _ => hr', fun hi => absurd hi hafter.2⟩
  · exact h

theorem State.Inv.play {s : State} (h : s.Inv) : s.play.Inv := h.moveRun (by decide) (.inl rfl)

theorem State.Inv.pause {s : State} (h : s.Inv) : s.pause.Inv := h.moveRun (by decide) (.inr rfl)

theorem State.Inv.resume {s : State} (h : s.Inv) : s.resume.Inv := h.moveRun (by decide) (.inl rfl)

/-- A program fits from ORIGIN on, so its bytes keep memory canonical (R354). -/
theorem State.Inv.loadProgram {s : State} (h : s.Inv) (bytes : List Byte) : (s.loadProgram bytes).Inv := by
  unfold State.loadProgram
  split_ifs with hadmitted
  · obtain ⟨hidle, hlen⟩ := Bool.and_eq_true_iff.1 hadmitted
    rw [beq_iff_eq] at hidle
    obtain ⟨hmem, hscreen, hstack, hrecord, hwait, -⟩ := h
    have hfits : Config.origin + bytes.length ≤ Config.memSize := Nat.add_le_of_le_sub' (by decide) (of_decide_eq_true hlen)
    have hno_wait : ¬s.wait.isSome := fun hw => by rcases hwait hw with hr | hr <;> rw [hidle] at hr <;> cases hr
    exact ⟨Memory.wf_writeList hmem hfits, hscreen, hstack,
      iff_of_false (mt hrecord.1 (by rw [hidle]; decide)) nofun, fun hw => absurd hw hno_wait, nofun⟩
  · exact h

/-- The reset is to the created state, but for the timestamps and the model's own fields. -/
theorem State.inv_fullReset (s : State) : s.fullReset.Inv := State.inv_created s.params

theorem hostStep_inv {op : HostOp} {s t : State} (hs : s.Inv) (h : hostStep op s = .next t) : t.Inv := by
  cases op with
  | loadProgram bytes => cases next_inj h; exact hs.loadProgram bytes
  | play => cases next_inj h; exact hs.play
  | pause => cases next_inj h; exact hs.pause
  | resume => cases next_inj h; exact hs.resume
  | stop => cases next_inj h; exact s.inv_fullReset
  | stepOneCycle => exact hostStepOneCycle_inv hs h
  | executeRaw w => exact hostExecuteRaw_inv hs h
  | getFramebufferView => cases next_inj h; exact hs
  | getInputStateHandle => cases next_inj h; exact hs

/-- The invariant says nothing of the key flags, the latch and `pressed`. -/
theorem State.Inv.setDown {s : State} (h : s.Inv) (k : Nibble) (b : Bool) : (s.setDown k b).Inv := h

/-- The invariant says nothing of the inputs to come. -/
theorem State.Inv.dequeue {s : State} (h : s.Inv) : s.dequeue.Inv := h

theorem eventStep_inv {e : Event} {s t : State} (hs : s.Inv) (h : eventStep e s = .next t) : t.Inv := by
  cases e with
  | core => exact coreStep_inv hs h
  | host op => exact hostStep_inv hs h
  | setDown k b => cases next_inj h; exact hs.setDown k b

/-- Settles O46: the CORE, the host and the keypad each keep the invariant. -/
theorem stepKeepsInvariant : Obligations.StepKeepsInvariant := by
  intro s t hs h
  obtain ⟨-, hc⟩ | ⟨e, rest, -, he⟩ := step_cases h
  · exact coreStep_inv hs hc
  · exact eventStep_inv hs.dequeue he

/-- Settles O49: stop resets to the state created with the same parameters, at the clock's reading. -/
theorem stopResetsEverything : Obligations.StopResetsEverything := fun s =>
  ⟨rfl, s.fullReset, rfl, resetTable_created s.params s.now (s.tickCount + 1) s.rngCount s.diag s.schedule,
    s.fullReset_params, s.fullReset_tickCount, s.fullReset_rngCount, s.fullReset_diag, s.fullReset_schedule⟩

end Sys2Proof.Machine
end

section
/-!
PROOFS. How far step 3 moves pc (10_state.md R27; 40_cycle.md R126; 42_flow.md R192); and that it reads neither ST nor a timestamp:
it commutes with writing other values into them (10_state.md R29, R30).
-/

namespace Sys2Proof.Machine

/-! ## The reach of pc (R27) -/

/-- How step 3 may leave pc: where it was; or, with neither a fatal error nor a wait to end the cycle there, past one instruction
or 2 below a target of at most 0x10FE. -/
def PcMove (s t : State) : Prop :=
  t.pc = s.pc ∨
  (t.run = s.run ∧ t.wait = s.wait ∧ (t.pc = s.pc + 2 ∨ ∃ target : Word, target.toNat ≤ 0x10FE ∧ t.pc = target - 2))

theorem pcMove_skipIf (s : State) (c : Bool) : PcMove s (s.skipIf c) := by
  rw [State.skipIf_eq]
  cases c
  · exact .inl rfl
  · exact .inr ⟨rfl, rfl, .inl rfl⟩

theorem pcMove_jump (s : State) {target : Word} (h : target.toNat ≤ 0x10FE) : PcMove s (s.jump target) :=
  .inr ⟨rfl, rfl, .inr ⟨target, h, rfl⟩⟩

theorem toNat_wordOfAddr_le (nnn : Addr) : (wordOfAddr nnn).toNat ≤ 0xFFF := by
  have := nnn.isLt
  rw [wordOfAddr, BitVec.toNat_setWidth_of_le (by decide)]
  omega

/-- NNN + V0 at its largest (R192). -/
theorem toNat_wordOfAddr_add_le (nnn : Addr) (b : Byte) : (wordOfAddr nnn + wordOfByte b).toNat ≤ 0x10FE := by
  have hn := toNat_wordOfAddr_le nnn
  have hb : (wordOfByte b).toNat ≤ 0xFF := by
    have := b.isLt
    rw [wordOfByte, BitVec.toNat_setWidth_of_le (by decide)]
    omega
  rw [BitVec.toNat_add]
  exact (Nat.mod_le _ _).trans (Nat.add_le_add hn hb)

@[simp] theorem storeBytes_pc (ins : Instr) (a : Nat) (bs : List Byte) (s : State) :
    (storeBytes ins a bs s).pc = s.pc := by rw [storeBytes_touches]

@[simp] theorem loadRegs_pc (ins : Instr) (a : Nat) (rs : List Reg) (s : State) :
    (loadRegs ins a rs s).pc = s.pc := by rw [loadRegs_touches]

@[simp] theorem drawParts_pc (ins : Instr) (ps : List SpritePart) (col : Bool) (s : State) :
    (drawParts ins ps col s).pc = s.pc := by rw [drawParts_touches]

/-- RET alone takes pc from the stack, which may hold any word; every other instruction moves it within reach. -/
theorem exec_pcMove {i : Instr} {s t : State} (hi : i ≠ .ret) (h : exec i s = .next t) : PcMove s t := by
  cases i
  case ret => exact absurd rfl hi
  case jp nnn => cases next_inj h; exact pcMove_jump s ((toNat_wordOfAddr_le nnn).trans (by decide))
  case jpV0 nnn => cases next_inj h; exact pcMove_jump s (toNat_wordOfAddr_add_le nnn _)
  case call nnn =>
    rw [show exec (.call nnn) s = _ from execCall_eq nnn s] at h; cases next_inj h
    split_ifs
    · exact .inl rfl
    · exact pcMove_jump (s.setStack _) ((toNat_wordOfAddr_le nnn).trans (by decide))
  case skp x =>
    rw [show exec (.skp x) s = _ from execSkp_eq x s] at h; cases next_inj h
    split_ifs
    · exact .inl rfl
    · exact pcMove_skipIf s _
  case sknp x =>
    rw [show exec (.sknp x) s = _ from execSknp_eq x s] at h; cases next_inj h
    split_ifs
    · exact .inl rfl
    · exact pcMove_skipIf s _
  case seImm x nn => cases next_inj h; exact pcMove_skipIf s _
  case sneImm x nn => cases next_inj h; exact pcMove_skipIf s _
  case seReg x y => cases next_inj h; exact pcMove_skipIf s _
  case sneReg x y => cases next_inj h; exact pcMove_skipIf s _
  case drw x y n => cases next_inj h; exact .inl (drawParts_pc ..)
  case drw16 x y => cases next_inj h; exact .inl (drawParts_pc ..)
  case ldB x => cases next_inj h; exact .inl (storeBytes_pc ..)
  case ldMemVx x => cases next_inj h; exact .inl (storeBytes_pc ..)
  case ldVxMem x => cases next_inj h; exact .inl (loadRegs_pc ..)
  all_goals cases next_inj h; exact .inl rfl

@[simp] theorem State.endCycle_pc (s : State) : s.endCycle.pc = s.pc + 2 := rfl

/-- Steps 4 and 5 add 2 to pc, or leave it after a fatal error or in a wait. -/
theorem State.afterExecute_pc (s : State) :
    s.afterExecute.pc = if s.run = .faulted ∨ s.wait ≠ none then s.pc else s.pc + 2 := by
  have hcond : (s.run == .faulted || s.wait.isSome) = true ↔ s.run = .faulted ∨ s.wait ≠ none := by
    simp [Option.isSome_iff_ne_none]
  simp only [State.afterExecute, hcond]
  split_ifs <;> rfl

/-- From a pc that could be fetched, a cycle that moves pc so and runs to its end leaves it within reach. -/
theorem PcMove.afterExecute_le {s t : State} (h : PcMove s t) (hpc : s.pc.toNat ≤ 0xFFE) (hrun : s.run ≠ .faulted)
    (hwait : s.wait = none) : t.afterExecute.pc.toNat ≤ 0x10FE := by
  rw [State.afterExecute_pc]
  rcases h with hkept | ⟨hr, hw, hmoved⟩
  · rw [hkept]
    split_ifs <;> bv_omega
  · rw [if_neg (by rw [hr, hw, hwait]; simp [hrun])]
    rcases hmoved with hskip | ⟨target, hreach, hjump⟩
    · rw [hskip]; bv_omega
    · rw [hjump, BitVec.sub_add_cancel]; exact hreach

/-- Settles O11: step 3 moves pc by `PcMove`, and a fetched pc is 0xFFE at most. -/
theorem cycleKeepsPcInReach : Obligations.CycleKeepsPcInReach := by
  intro s u i hc hf hd hi hstep
  rw [step_of_fetchable hc hf] at hstep
  obtain ⟨-, hrun, hwait⟩ := hc
  obtain ⟨-, hpc⟩ := hf
  obtain ⟨j, t, hj, ht, rfl⟩ | ⟨e, he, -, -⟩ := runWord_cases hstep
  · rw [hd] at hj
    cases hj
    have hpc' : s.dequeue.pc.toNat ≤ 0xFFE := by rw [State.dequeue_pc]; exact Nat.le_of_lt_succ (Nat.lt_of_succ_lt_succ hpc)
    exact (exec_pcMove hi ht).afterExecute_le hpc' (by rw [State.dequeue_run, hrun]; decide) hwait
  · rw [hd] at he
    cases he

/-! ## ST and the timestamps are not read (R29, R30) -/

/-- Other values of ST and of both timestamps. -/
def State.withSound (s : State) (b : Byte) (d e : Nat) : State := { s with st := b, dtLast := d, stLast := e }

/-- Writing the three values changes nothing but themselves. -/
theorem onlyChanges_withSound (s : State) (b : Byte) (d e : Nat) :
    OnlyChanges [.st, .dtLast, .stLast] s (s.withSound b d e) := by
  intro p hp
  cases p
  case st => exact absurd (by simp) hp
  case dtLast => exact absurd (by simp) hp
  case stLast => exact absurd (by simp) hp
  all_goals rfl

theorem storeBytes_withSound (ins : Instr) (a : Nat) (bs : List Byte) (s : State) (b : Byte) (d e : Nat) :
    storeBytes ins a bs (s.withSound b d e) = (storeBytes ins a bs s).withSound b d e := by
  induction bs generalizing a s with
  | nil => rfl
  | cons c bs ih =>
    unfold storeBytes State.memWrite
    split_ifs
    · exact ih (a + 1) (s.setMem (s.mem.write a c))
    · rfl

theorem loadRegs_withSound (ins : Instr) (a : Nat) (rs : List Reg) (s : State) (b : Byte) (d e : Nat) :
    loadRegs ins a rs (s.withSound b d e) = (loadRegs ins a rs s).withSound b d e := by
  induction rs generalizing a s with
  | nil => rfl
  | cons r rs ih =>
    unfold loadRegs State.memRead
    split_ifs
    · exact ih (a + 1) (s.setV r (s.mem.read a))
    · rfl

theorem drawParts_withSound (ins : Instr) (ps : List SpritePart) (col : Bool) (s : State) (b : Byte) (d e : Nat) :
    drawParts ins ps col (s.withSound b d e) = (drawParts ins ps col s).withSound b d e := by
  induction ps generalizing col s with
  | nil => rfl
  | cons p ps ih =>
    unfold drawParts State.memRead
    split_ifs
    · exact ih _ (s.setFb _)
    · rfl

theorem skipIf_withSound (s : State) (c : Bool) (b : Byte) (d e : Nat) :
    (s.withSound b d e).skipIf c = (s.skipIf c).withSound b d e := by cases c <;> rfl

@[simp] theorem State.withSound_stack (s : State) (b : Byte) (d e : Nat) : (s.withSound b d e).stack = s.stack := rfl

@[simp] theorem State.withSound_params (s : State) (b : Byte) (d e : Nat) : (s.withSound b d e).params = s.params := rfl

@[simp] theorem State.getV_withSound (s : State) (b : Byte) (d e : Nat) (r : Reg) :
    (s.withSound b d e).getV r = s.getV r := rfl

@[simp] theorem State.isDown_withSound (s : State) (b : Byte) (d e : Nat) (k : Nibble) :
    (s.withSound b d e).isDown k = s.isDown k := rfl

/-- A result statement that reads neither ST nor a timestamp. -/
theorem flagThenResult_withSound (s : State) (x : Reg) (flag : Byte) {f : State → Byte} (b : Byte) (d e : Nat)
    (hf : ∀ t : State, f (t.withSound b d e) = f t) :
    flagThenResult (s.withSound b d e) x flag f = (flagThenResult s x flag f).withSound b d e := by
  have hresult : f (if s.params.vfAlias = .sequential then (s.withSound b d e).setV Reg.flag flag else s.withSound b d e) =
      f (if s.params.vfAlias = .sequential then s.setV Reg.flag flag else s) := by
    split_ifs
    · exact hf (s.setV Reg.flag flag)
    · exact hf s
  rw [flagThenResult_eq, flagThenResult_eq, State.withSound_params, hresult]
  rfl

/-- Every instruction runs alike whatever ST and the timestamps are, and carries their values along; but LD ST, Vx leaves the ST it
would have left. -/
theorem exec_withSound {i : Instr} {s t : State} (h : exec i s = .next t) (b : Byte) (d e : Nat) :
    ∃ c, (c = t.st ∨ c = b) ∧ exec i (s.withSound b d e) = .next (t.withSound c d e) := by
  cases i
  case ldStVx x => cases next_inj h; exact ⟨s.getV x, .inl rfl, rfl⟩
  all_goals refine ⟨b, .inr rfl, ?_⟩
  case ret =>
    rw [show exec .ret s = _ from execRet_eq s] at h; cases next_inj h
    refine (execRet_eq _).trans (congrArg _ ?_)
    rw [State.withSound_stack]
    cases s.stack <;> rfl
  case call nnn =>
    rw [show exec (.call nnn) s = _ from execCall_eq nnn s] at h; cases next_inj h
    refine (execCall_eq nnn _).trans (congrArg _ ?_)
    by_cases hfull : s.params.stackDepth ≤ s.stack.length
    · rw [if_pos hfull]; exact if_pos hfull
    · rw [if_neg hfull]; exact if_neg hfull
  case skp x =>
    rw [show exec (.skp x) s = _ from execSkp_eq x s] at h; cases next_inj h
    refine (execSkp_eq x _).trans (congrArg _ ?_)
    simp only [State.getV_withSound, State.withSound_params, State.isDown_withSound, skipIf_withSound]
    split_ifs <;> rfl
  case sknp x =>
    rw [show exec (.sknp x) s = _ from execSknp_eq x s] at h; cases next_inj h
    refine (execSknp_eq x _).trans (congrArg _ ?_)
    simp only [State.getV_withSound, State.withSound_params, State.isDown_withSound, skipIf_withSound]
    split_ifs <;> rfl
  case seImm x nn => cases next_inj h; exact congrArg _ (skipIf_withSound s _ b d e)
  case sneImm x nn => cases next_inj h; exact congrArg _ (skipIf_withSound s _ b d e)
  case seReg x y => cases next_inj h; exact congrArg _ (skipIf_withSound s _ b d e)
  case sneReg x y => cases next_inj h; exact congrArg _ (skipIf_withSound s _ b d e)
  case addReg x y => cases next_inj h; exact congrArg _ (flagThenResult_withSound s x _ b d e fun _ => rfl)
  case sub x y => cases next_inj h; exact congrArg _ (flagThenResult_withSound s x _ b d e fun _ => rfl)
  case shr x y => cases next_inj h; exact congrArg _ (flagThenResult_withSound s x _ b d e fun _ => rfl)
  case subn x y => cases next_inj h; exact congrArg _ (flagThenResult_withSound s x _ b d e fun _ => rfl)
  case shl x y => cases next_inj h; exact congrArg _ (flagThenResult_withSound s x _ b d e fun _ => rfl)
  case drw x y n => cases next_inj h; exact congrArg _ (drawParts_withSound _ _ _ s b d e)
  case drw16 x y => cases next_inj h; exact congrArg _ (drawParts_withSound _ _ _ s b d e)
  case ldB x => cases next_inj h; exact congrArg _ (storeBytes_withSound _ _ _ s b d e)
  case ldMemVx x => cases next_inj h; exact congrArg _ (storeBytes_withSound _ _ _ s b d e)
  case ldVxMem x => cases next_inj h; exact congrArg _ (loadRegs_withSound _ _ _ s b d e)
  all_goals cases next_inj h; rfl

/-- Settles O45: the second run ends in the first run's state with other values of the three. -/
theorem soundTimerIsNotReadable : Obligations.SoundTimerIsNotReadable := by
  intro i s t b d e h
  obtain ⟨c, hc, hrun⟩ := exec_withSound h b d e
  exact ⟨t.withSound c d e, hrun, onlyChanges_withSound t c d e, rfl, rfl, hc⟩

end Sys2Proof.Machine
end

section
/-!
PROOFS. The memory's own statements: the byte order of a fetched word (20_memory.md R63) and the bounds-checked primitives (R61).
-/

namespace Sys2Proof.Machine

/-- The two bytes at pc always fit in the word they make, so it is their value in base 256 (R63). -/
theorem toNat_wordAtPc (s : State) :
    (wordAtPc s).toNat = (s.mem.read s.pc.toNat).toNat * 256 + (s.mem.read (s.pc.toNat + 1)).toNat := by
  have hhigh := (s.mem.read s.pc.toNat).isLt
  have hlow := (s.mem.read (s.pc.toNat + 1)).isLt
  rw [wordAtPc, BitVec.toNat_ofNat, Nat.mod_eq_of_lt (by omega)]

/-- Settles O5: the fetch gives the word at pc, whose value has the byte at pc as its high digit. -/
theorem fetchIsBigEndian : Obligations.FetchIsBigEndian :=
  fun s h => ⟨fetch_of_fetchable h, toNat_wordAtPc s⟩

/-- A write inside memory: the byte is read back, the list stays canonical, and no other byte or field changes (R61). -/
theorem State.memWrite_effect {s : State} (hm : s.mem.wf) {a : Nat} (ha : a < Config.memSize) (b : Byte) :
    ∃ t, s.memWrite a b = .ok t ∧ t.mem.read a = b ∧ t.mem.wf ∧ OnlyChanges [.byteAt a] s t := by
  refine ⟨s.setMem (s.mem.write a b), State.memWrite_of_lt ha, ?_, Memory.wf_write hm ha b, ?_⟩
  · exact (Memory.read_write hm a a b).trans (if_pos rfl)
  · exact onlyChanges_write (List.mem_singleton.2 rfl) hm b

/-- Settles O41, by the two sides of the bound: a write's effect inside memory, the two errors outside. -/
theorem memoryIsBoundsChecked : Obligations.MemoryIsBoundsChecked := by
  intro s a b k hm
  constructor
  · intro ha
    exact ⟨State.memRead_of_lt ha, State.memWrite_effect hm ha b⟩
  · intro ha
    exact ⟨State.memRead_of_ge ha, State.memWrite_of_ge ha⟩

end Sys2Proof.Machine
end

section
/-!
PROOFS. The decoder and the encoder are inverse to each other, and the decoder accepts just the words the opcode map's masks admit
(30_encoding.md R90, R93 to R97, R102; 40_cycle.md R122).
-/

namespace Sys2Proof

/-- The instruction stands for the word: it is well formed, and the word is its encoding (R93). -/
def Instr.Denotes (i : Instr) (w : Word) : Prop := i.wellFormed = true ∧ encode i = w

/-! ## Decoding an encoding (R93, R102) -/

theorem decodeWord_encode {i : Instr} (hwf : i.wellFormed = true) : decodeWord (encode i) = .ok i := by
  cases i with
  | cls | ret | scr | scl | low | high => rfl
  | scd n => revert n; decide
  | jp nnn | call nnn | ldI nnn | jpV0 nnn => simp [encode, decodeWord]
  | seImm x nn | sneImm x nn | ldImm x nn | addImm x nn | rnd x nn => simp [encode, decodeWord]
  | seReg x y | sneReg x y | drw16 x y => simp [encode, decodeWord]
  | drw x y n =>
    have hn : n ≠ 0#4 := bne_iff_ne.1 hwf
    simp [encode, decodeWord, hn]
  | ldReg x y | orReg x y | andReg x y | xorReg x y | addReg x y | sub x y | shr x y | subn x y | shl x y =>
    simp [encode, decodeWord, decodeFamily8]
  | skp x | sknp x => simp [encode, decodeWord, decodeFamilyE]
  | ldVxDt x | ldVxK x | ldDtVx x | ldStVx x | addI x | ldF x | ldHf x | ldB x | ldMemVx x | ldVxMem x =>
    simp [encode, decodeWord, decodeFamilyF]

/-- The two bytes at the front of a list are decoded as the word they make, and the others are given back. -/
theorem decodeBytes_encodeBytes_append {i : Instr} (hwf : i.wellFormed = true) (rest : List Byte) :
    decodeBytes (encodeBytes i ++ rest) = .ok (i, rest) := by
  simp [encodeBytes, decodeBytes, decodeWord_encode hwf]

/-- Settles O2: the bytes of an encoding make its word, and the decoder reads the word's fields back. -/
theorem decodeOfEncode : Obligations.DecodeOfEncode :=
  fun _ rest hwf => ⟨decodeWord_encode hwf, decodeBytes_encodeBytes_append hwf rest⟩

/-! ## Encoding a decoded word (R93, R122) -/

section
variable {w : Word} {op : Nibble} {i : Instr}

theorem wordNNN_of_fields {nnn : Addr} (hop : (fieldOp w).toNat = op.toNat) (hnnn : (fieldNNN w).toNat = nnn.toNat) :
    wordNNN op nnn = w := by
  rw [← BitVec.eq_of_toNat_eq hop, ← BitVec.eq_of_toNat_eq hnnn, wordNNN_fields]

theorem wordXNN_of_fields {nn : Byte} (hop : (fieldOp w).toNat = op.toNat) (hnn : (fieldNN w).toNat = nn.toNat) :
    wordXNN op (fieldX w) nn = w := by
  rw [← BitVec.eq_of_toNat_eq hop, ← BitVec.eq_of_toNat_eq hnn, wordXNN_fields]

theorem wordXYN_of_fields {n : Nibble} (hop : (fieldOp w).toNat = op.toNat) (hn : (fieldN w).toNat = n.toNat) :
    wordXYN op (fieldX w) (fieldY w) n = w := by
  rw [← BitVec.eq_of_toNat_eq hop, ← BitVec.eq_of_toNat_eq hn, wordXYN_fields]

theorem eq_of_fieldOp_of_fieldNNN {p : Word} (hop : (fieldOp w).toNat = (fieldOp p).toNat)
    (hnnn : (fieldNNN w).toNat = (fieldNNN p).toNat) : p = w :=
  (wordNNN_fields p).symm.trans (wordNNN_of_fields hop hnnn)

theorem denotes_scd (hop : (fieldOp w).toNat = 0x0) (hx : fieldX w = 0x0#4) (hy : fieldY w = 0xC#4) :
    (Instr.scd (fieldN w)).Denotes w := by
  have hw : wordXYN 0x0 (fieldX w) (fieldY w) (fieldN w) = w := wordXYN_of_fields hop rfl
  rw [hx, hy] at hw
  exact ⟨rfl, hw⟩

theorem denotes_of_decodeFamily0 (hop : (fieldOp w).toNat = 0x0) (h : decodeFamily0 w = .ok i) : i.Denotes w := by
  unfold decodeFamily0 at h
  split at h
  case h_7 =>
    split_ifs at h with hscd
    obtain ⟨hx, hy⟩ := hscd
    cases h
    exact denotes_scd hop hx hy
  all_goals
    rename_i hnnn
    cases h
    exact ⟨rfl, eq_of_fieldOp_of_fieldNNN hop hnnn⟩

theorem denotes_of_decodeFamily8 (hop : (fieldOp w).toNat = 0x8) (h : decodeFamily8 w = .ok i) : i.Denotes w := by
  unfold decodeFamily8 at h
  split at h
  case h_10 => cases h
  all_goals
    rename_i hn
    cases h
    exact ⟨rfl, wordXYN_of_fields hop hn⟩

theorem denotes_of_decodeFamilyE (hop : (fieldOp w).toNat = 0xE) (h : decodeFamilyE w = .ok i) : i.Denotes w := by
  unfold decodeFamilyE at h
  split at h
  case h_3 => cases h
  all_goals
    rename_i hnn
    cases h
    exact ⟨rfl, wordXNN_of_fields hop hnn⟩

theorem denotes_of_decodeFamilyF (hop : (fieldOp w).toNat = 0xF) (h : decodeFamilyF w = .ok i) : i.Denotes w := by
  unfold decodeFamilyF at h
  split at h
  case h_11 => cases h
  all_goals
    rename_i hnn
    cases h
    exact ⟨rfl, wordXNN_of_fields hop hnn⟩

/-- The cases are the families, in order: `h_1` is family 0x0 and `h_16` the last arm, family 0xF. -/
theorem denotes_of_decodeWord (h : decodeWord w = .ok i) : i.Denotes w := by
  unfold decodeWord at h
  split at h
  case h_1 hop => exact denotes_of_decodeFamily0 hop h
  case h_9 hop => exact denotes_of_decodeFamily8 hop h
  case h_15 hop => exact denotes_of_decodeFamilyE hop h
  case h_16 =>
    simp only [imp_false] at *
    have hop : (fieldOp w).toNat = 0xF := by omega
    exact denotes_of_decodeFamilyF hop h
  case h_2 hop | h_3 hop | h_11 hop | h_12 hop => cases h; exact ⟨rfl, wordNNN_of_fields hop rfl⟩
  case h_4 hop | h_5 hop | h_7 hop | h_8 hop | h_13 hop => cases h; exact ⟨rfl, wordXNN_of_fields hop rfl⟩
  case h_6 hop | h_10 hop =>
    split_ifs at h with hn
    cases h
    exact ⟨rfl, wordXYN_of_fields hop (congrArg _ hn)⟩
  case h_14 hop =>
    split_ifs at h with hn
    · cases h; exact ⟨rfl, wordXYN_of_fields hop (congrArg _ hn)⟩
    · cases h; exact ⟨bne_iff_ne.2 hn, wordXYN_of_fields hop rfl⟩

/-- A word decodes to the instruction it is the word of, and to no other. -/
theorem decodeWord_eq_ok_iff : decodeWord w = .ok i ↔ i.Denotes w := by
  constructor
  · exact denotes_of_decodeWord
  · rintro ⟨hwf, rfl⟩
    exact decodeWord_encode hwf

end

/-- Settles O3: each arm of the decoder fixes the fields its instruction's pattern fixes, and keeps the others. -/
theorem encodeOfDecode : Obligations.EncodeOfDecode := fun _ _ => denotes_of_decodeWord

/-! ## What a row of the opcode map admits (R93) -/

/-- Every word the row admits is the word of an instruction with the row's mnemonic. -/
def OpcodeRow.Covered (row : OpcodeRow) : Prop :=
  ∀ w : Word, row.admits w = true → ∃ i : Instr, i.Denotes w ∧ i.rowMnemonic = row.mnemonic

section
variable {m : String} {p w mask : Word}

theorem and_mask_of_admits {nonzero : Bool} (h : OpcodeRow.admits ⟨m, p, mask, nonzero⟩ w = true) : w &&& mask = p :=
  beq_iff_eq.1 (Bool.and_eq_true_iff.1 h).1

/-- A field the mask keeps whole has the value the pattern gives it. -/
theorem field_of_and_mask {start len : Nat} (h : w &&& mask = p)
    (hmask : mask.extractLsb' start len = BitVec.allOnes len) : w.extractLsb' start len = p.extractLsb' start len := by
  rw [← h, BitVec.extractLsb'_and, hmask, BitVec.and_allOnes]

theorem toNat_fieldOp_of_and_mask (h : w &&& mask = p) (hmask : mask.extractLsb' 12 4 = BitVec.allOnes 4) :
    (fieldOp w).toNat = (fieldOp p).toNat := congrArg _ (field_of_and_mask h hmask)

/-! One lemma per shape of row. That the instruction named has the row's pattern and mnemonic is by evaluation. -/

theorem covered_word (i : Instr) (hi : i.Denotes p ∧ i.rowMnemonic = m := by exact ⟨⟨rfl, rfl⟩, rfl⟩) :
    OpcodeRow.Covered ⟨m, p, 0xFFFF, false⟩ := by
  intro w h
  have hw : w = p := (BitVec.and_allOnes (x := w)).symm.trans (and_mask_of_admits h)
  exact ⟨i, hw ▸ hi⟩

theorem covered_wordNNN (f : Addr → Instr)
    (hf : ∀ nnn, (f nnn).Denotes (wordNNN (fieldOp p) nnn) ∧ (f nnn).rowMnemonic = m := by
      exact fun _ => ⟨⟨rfl, rfl⟩, rfl⟩) :
    OpcodeRow.Covered ⟨m, p, 0xF000, false⟩ := by
  intro w h
  have hop := toNat_fieldOp_of_and_mask (and_mask_of_admits h) rfl
  have hi := hf (fieldNNN w)
  rw [wordNNN_of_fields hop rfl] at hi
  exact ⟨_, hi⟩

theorem covered_wordXNN (f : Reg → Byte → Instr)
    (hf : ∀ x nn, (f x nn).Denotes (wordXNN (fieldOp p) x nn) ∧ (f x nn).rowMnemonic = m := by
      exact fun _ _ => ⟨⟨rfl, rfl⟩, rfl⟩) :
    OpcodeRow.Covered ⟨m, p, 0xF000, false⟩ := by
  intro w h
  have hop := toNat_fieldOp_of_and_mask (and_mask_of_admits h) rfl
  have hi := hf (fieldX w) (fieldNN w)
  rw [wordXNN_of_fields hop rfl] at hi
  exact ⟨_, hi⟩

theorem covered_wordXY (f : Reg → Reg → Instr)
    (hf : ∀ x y, (f x y).Denotes (wordXYN (fieldOp p) x y (fieldN p)) ∧ (f x y).rowMnemonic = m := by
      exact fun _ _ => ⟨⟨rfl, rfl⟩, rfl⟩) :
    OpcodeRow.Covered ⟨m, p, 0xF00F, false⟩ := by
  intro w h
  have hop := toNat_fieldOp_of_and_mask (and_mask_of_admits h) rfl
  have hn : fieldN w = fieldN p := field_of_and_mask (and_mask_of_admits h) rfl
  have hi := hf (fieldX w) (fieldY w)
  rw [wordXYN_of_fields hop (congrArg _ hn)] at hi
  exact ⟨_, hi⟩

theorem covered_wordX (f : Reg → Instr)
    (hf : ∀ x, (f x).Denotes (wordXNN (fieldOp p) x (fieldNN p)) ∧ (f x).rowMnemonic = m := by
      exact fun _ => ⟨⟨rfl, rfl⟩, rfl⟩) :
    OpcodeRow.Covered ⟨m, p, 0xF0FF, false⟩ := by
  intro w h
  have hop := toNat_fieldOp_of_and_mask (and_mask_of_admits h) rfl
  have hnn : fieldNN w = fieldNN p := field_of_and_mask (and_mask_of_admits h) rfl
  have hi := hf (fieldX w)
  rw [wordXNN_of_fields hop (congrArg _ hnn)] at hi
  exact ⟨_, hi⟩

end

theorem covered_scd : OpcodeRow.Covered ⟨"SCD_N", 0x00C0, 0xFFF0, false⟩ := by
  intro w h
  have hmask := and_mask_of_admits h
  have hx : fieldX w = 0x0#4 := field_of_and_mask hmask rfl
  have hy : fieldY w = 0xC#4 := field_of_and_mask hmask rfl
  exact ⟨.scd (fieldN w), denotes_scd (toNat_fieldOp_of_and_mask hmask rfl) hx hy, rfl⟩

/-- The one row with a constraint: N ≠ 0 is what makes the instruction well formed (R96). -/
theorem covered_drw : OpcodeRow.Covered ⟨"DRW_Vx__Vy__N", 0xD000, 0xF000, true⟩ := by
  intro w h
  have hop := toNat_fieldOp_of_and_mask (and_mask_of_admits h) rfl
  have hn : (fieldN w != 0#4) = true := (Bool.and_eq_true_iff.1 h).2
  exact ⟨.drw (fieldX w) (fieldY w) (fieldN w), ⟨hn, wordXYN_of_fields hop rfl⟩, rfl⟩

theorem opcodeRows05_covered : ∀ row ∈ opcodeRows05, row.Covered := by
  simp only [opcodeRows05, List.forall_mem_cons]
  exact ⟨covered_word .cls, covered_word .ret, covered_scd, covered_word .scr, covered_word .scl, covered_word .low,
    covered_word .high, covered_wordNNN .jp, covered_wordNNN .call, covered_wordXNN .seImm, covered_wordXNN .sneImm,
    covered_wordXY .seReg, nofun⟩

theorem opcodeRows69_covered : ∀ row ∈ opcodeRows69, row.Covered := by
  simp only [opcodeRows69, List.forall_mem_cons]
  exact ⟨covered_wordXNN .ldImm, covered_wordXNN .addImm, covered_wordXY .ldReg, covered_wordXY .orReg,
    covered_wordXY .andReg, covered_wordXY .xorReg, covered_wordXY .addReg, covered_wordXY .sub, covered_wordXY .shr,
    covered_wordXY .subn, covered_wordXY .shl, covered_wordXY .sneReg, nofun⟩

theorem opcodeRowsAE_covered : ∀ row ∈ opcodeRowsAE, row.Covered := by
  simp only [opcodeRowsAE, List.forall_mem_cons]
  exact ⟨covered_wordNNN .ldI, covered_wordNNN .jpV0, covered_wordXNN .rnd, covered_drw, covered_wordXY .drw16,
    covered_wordX .skp, covered_wordX .sknp, nofun⟩

theorem opcodeRowsF_covered : ∀ row ∈ opcodeRowsF, row.Covered := by
  simp only [opcodeRowsF, List.forall_mem_cons]
  exact ⟨covered_wordX .ldVxDt, covered_wordX .ldVxK, covered_wordX .ldDtVx, covered_wordX .ldStVx, covered_wordX .addI,
    covered_wordX .ldF, covered_wordX .ldHf, covered_wordX .ldB, covered_wordX .ldMemVx, covered_wordX .ldVxMem, nofun⟩

theorem opcodeMap_covered : ∀ row ∈ opcodeMap, row.Covered := by
  simp only [opcodeMap, List.forall_mem_append]
  exact ⟨⟨⟨opcodeRows05_covered, opcodeRows69_covered⟩, opcodeRowsAE_covered⟩, opcodeRowsF_covered⟩

/-! ## The decoder and the opcode map (R93, R122) -/

section
open Laws

/-- The family RowOf of Laws/PerInstr.lean, put together. -/
theorem rowOf_statement : ∀ i : Instr, RowOf.Statement i
  | .cls => RowOf.cls | .ret => RowOf.ret | .scd n => RowOf.scd n | .scr => RowOf.scr | .scl => RowOf.scl
  | .low => RowOf.low | .high => RowOf.high | .jp nnn => RowOf.jp nnn | .call nnn => RowOf.call nnn
  | .seImm x nn => RowOf.seImm x nn | .sneImm x nn => RowOf.sneImm x nn | .seReg x y => RowOf.seReg x y
  | .ldImm x nn => RowOf.ldImm x nn | .addImm x nn => RowOf.addImm x nn | .ldReg x y => RowOf.ldReg x y
  | .orReg x y => RowOf.orReg x y | .andReg x y => RowOf.andReg x y | .xorReg x y => RowOf.xorReg x y
  | .addReg x y => RowOf.addReg x y | .sub x y => RowOf.sub x y | .shr x y => RowOf.shr x y
  | .subn x y => RowOf.subn x y | .shl x y => RowOf.shl x y | .sneReg x y => RowOf.sneReg x y
  | .ldI nnn => RowOf.ldI nnn | .jpV0 nnn => RowOf.jpV0 nnn | .rnd x nn => RowOf.rnd x nn
  | .drw x y n => RowOf.drw x y n | .drw16 x y => RowOf.drw16 x y | .skp x => RowOf.skp x | .sknp x => RowOf.sknp x
  | .ldVxDt x => RowOf.ldVxDt x | .ldVxK x => RowOf.ldVxK x | .ldDtVx x => RowOf.ldDtVx x
  | .ldStVx x => RowOf.ldStVx x | .addI x => RowOf.addI x | .ldF x => RowOf.ldF x | .ldHf x => RowOf.ldHf x
  | .ldB x => RowOf.ldB x | .ldMemVx x => RowOf.ldMemVx x | .ldVxMem x => RowOf.ldVxMem x

end

theorem nodup_mnemonics : (opcodeMap.map OpcodeRow.mnemonic).Nodup := by decide

theorem row_eq_of_mnemonic_eq {row row' : OpcodeRow} (hrow : row ∈ opcodeMap) (hrow' : row' ∈ opcodeMap)
    (h : row.mnemonic = row'.mnemonic) : row = row' := List.inj_on_of_nodup_map nodup_mnemonics hrow hrow' h

/-- The mnemonic names the row, so the row with an instruction's mnemonic admits the instruction's word. -/
theorem admits_of_denotes {w : Word} {i : Instr} {row : OpcodeRow} (hrow : row ∈ opcodeMap) (hi : i.Denotes w)
    (hm : i.rowMnemonic = row.mnemonic) : row.admits w = true := by
  obtain ⟨row', hrow', hm', hadmits⟩ := rowOf_statement i
  obtain rfl : row' = row := row_eq_of_mnemonic_eq hrow' hrow (hm'.trans hm)
  obtain ⟨hwf, rfl⟩ := hi
  exact hadmits hwf

theorem admits_iff_decodeWord {w : Word} {row : OpcodeRow} (hrow : row ∈ opcodeMap) :
    row.admits w = true ↔ ∃ i, decodeWord w = .ok i ∧ i.rowMnemonic = row.mnemonic := by
  simp only [decodeWord_eq_ok_iff]
  constructor
  · exact opcodeMap_covered row hrow w
  · rintro ⟨i, hi, hm⟩
    exact admits_of_denotes hrow hi hm

theorem exists_row (i : Instr) : ∃ row ∈ opcodeMap, row.mnemonic = i.rowMnemonic := by
  obtain ⟨row, hrow, hm, -⟩ := rowOf_statement i
  exact ⟨row, hrow, hm⟩

/-- The rows that admit a word have the mnemonic of the instruction it decodes to, so they are one row. -/
theorem row_unique {w : Word} {row row' : OpcodeRow} (hrow : row ∈ opcodeMap) (hrow' : row' ∈ opcodeMap)
    (h : row.admits w = true) (h' : row'.admits w = true) : row = row' := by
  obtain ⟨i, hi, hm⟩ := (admits_iff_decodeWord hrow).1 h
  obtain ⟨j, hj, hm'⟩ := (admits_iff_decodeWord hrow').1 h'
  obtain rfl : i = j := Except.ok.inj (hi.symm.trans hj)
  exact row_eq_of_mnemonic_eq hrow hrow' (hm.symm.trans hm')

/-- Settles O4: every row is covered by its instruction, every instruction has its row, and no two rows share a mnemonic. -/
theorem decodeFollowsOpcodeMap : Obligations.DecodeFollowsOpcodeMap :=
  ⟨fun _ _ hrow => admits_iff_decodeWord hrow, fun _ i _ => exists_row i, fun _ _ _ hrow hrow' => row_unique hrow hrow'⟩

/-- Settles O1: the decoder, evaluated on each word. -/
theorem sampleWordsDecode : Obligations.SampleWordsDecode :=
  ⟨rfl, rfl, rfl, rfl, rfl, rfl, rfl, rfl, rfl, rfl, rfl, rfl, rfl, rfl, rfl, rfl, rfl, rfl⟩

end Sys2Proof
end

section
/-!
PROOFS. Every instruction runs in every state (30_encoding.md R101; 60_exceptions.md R300, R316).
-/

namespace Sys2Proof.Machine

/-- Step 3 answers a next state: the operations that can fail end in a fault entry (log 9). -/
theorem exists_exec_next (i : Instr) (s : State) : ∃ t, exec i s = .next t := by
  cases i
  case ret => exact ⟨_, execRet_eq s⟩
  case call nnn => exact ⟨_, execCall_eq nnn s⟩
  case skp x => exact ⟨_, execSkp_eq x s⟩
  case sknp x => exact ⟨_, execSknp_eq x s⟩
  all_goals exact ⟨_, rfl⟩

/-- Settles O43: the next state keeps the run state and the record but for a fault entry, as after step 3 of any instruction. -/
theorem everyInstructionRuns : Obligations.EveryInstructionRuns := by
  intro i s
  obtain ⟨t, ht⟩ := exists_exec_next i s
  refine ⟨t, ht, ?_⟩
  rcases (exec_step3 ht).control with hkept | ⟨hrun, e, w, hfault⟩
  · exact .inl hkept
  · exact .inr ⟨hrun, hfault ▸ rfl⟩

end Sys2Proof.Machine
end

section
/-!
PROOFS. The cycle around step 3: the three checks of a fetch, what an unknown word does, and when steps 4 and 5 follow (40_cycle.md
R120 to R130; 60_exceptions.md R301, R310, R311).
-/

namespace Sys2Proof.Machine

/-! ## Step 3 of the word at pc (R120, R123) -/

theorem runWord_of_decodes {w : Word} {i : Instr} (h : decodeWord w = .ok i) (s : State) :
    runWord w s = finishCycle (exec i s) := by
  rw [runWord, h]

theorem runWord_of_unknown {w : Word} {e : DecodeError} (h : decodeWord w = .error e) (s : State) :
    runWord w s = finishCycle (execUnknown w s) := by
  rw [runWord, h]

theorem step_of_decodes {s : State} {i : Instr} (hc : CycleNext s) (hf : Fetchable s)
    (hd : decodeWord (wordAtPc s) = .ok i) : step s = finishCycle (exec i s.dequeue) :=
  (step_of_fetchable hc hf).trans (runWord_of_decodes hd _)

/-- Settles O6: the fetch gives the word at pc, and the word decodes. -/
theorem stepRunsDecodedInstruction : Obligations.StepRunsDecodedInstruction :=
  fun _ _ hc hf hd => step_of_decodes hc hf hd

/-! ## Steps 4 and 5 (R125, R127) -/

theorem State.delayDue_iff (s : State) : s.delayDue = true ↔ Due s (Config.delayDue s.tickCount) s.dtLast := by
  unfold State.delayDue Due
  cases s.params.timerSource
  · exact Iff.rfl
  · exact decide_eq_true_iff

theorem State.soundDue_iff (s : State) : s.soundDue = true ↔ Due s (Config.soundDue s.tickCount) s.stLast := by
  unfold State.soundDue Due
  cases s.params.timerSource
  · exact Iff.rfl
  · exact decide_eq_true_iff

/-- One tick of either timer: it decrements, and takes its timestamp, exactly when it is above 0 and due. -/
theorem tickedValue_of_ite {s : State} {d : Bool} {due : Prop} {value value' : Byte} {last last' : Nat} (hdue : d = true ↔ due)
    (hvalue : value' = if value ≠ 0 ∧ d = true then value - 1 else value)
    (hlast : last' = if value ≠ 0 ∧ d = true then s.stamp last else last) :
    TickedValue s due value value' last last' := by
  have hcond : value ≠ 0 ∧ d = true ↔ value.toNat > 0 ∧ due := and_congr (by bv_omega) hdue
  constructor
  · intro h
    rw [if_pos (hcond.2 h)] at hvalue hlast
    obtain ⟨hpos, -⟩ := h
    exact ⟨by bv_omega, hlast⟩
  · intro h
    rw [if_neg (mt hcond.1 h)] at hvalue hlast
    exact ⟨hvalue, hlast⟩

theorem onlyChanges_endCycle (s : State) : OnlyChanges [.pc, .dt, .st, .dtLast, .stLast, .tickCount] s s.endCycle := by
  intro p hp
  cases p
  case pc | dt | st | dtLast | stLast | tickCount => exact absurd (by simp) hp
  all_goals rfl

theorem endedCycle_endCycle (s : State) : EndedCycle s s.endCycle :=
  ⟨rfl, rfl, tickedValue_of_ite s.delayDue_iff s.tickTimers_dt s.tickTimers_dtLast,
    tickedValue_of_ite s.soundDue_iff s.tickTimers_st s.tickTimers_stLast, onlyChanges_endCycle s⟩

/-! ## When they follow step 3 (R124, R130) -/

theorem State.afterExecute_of_stopped {s : State} (h : s.run = .faulted ∨ s.wait ≠ none) : s.afterExecute = s :=
  if_pos (by simpa [Option.isSome_iff_ne_none] using h)

theorem State.afterExecute_of_completed {s : State} (hrun : s.run ≠ .faulted) (hwait : s.wait = none) :
    s.afterExecute = s.endCycle :=
  if_neg (by simp [hrun, hwait])

/-- Settles O7: steps 4 and 5 follow, and they are the tick of both timers and the advance. -/
theorem completedCycleTicksAndAdvances : Obligations.CompletedCycleTicksAndAdvances := by
  intro s t i hc hf hd ht hrun hwait
  refine ⟨t.endCycle, ?_, endedCycle_endCycle t⟩
  rw [step_of_decodes hc hf hd, ht, finishCycle_next, State.afterExecute_of_completed hrun hwait]

/-- Settles O8: nothing follows step 3. -/
theorem cycleStopsAfterErrorOrWait : Obligations.CycleStopsAfterErrorOrWait := by
  intro s t i hc hf hd ht hstopped
  rw [step_of_decodes hc hf hd, ht, finishCycle_next, State.afterExecute_of_stopped hstopped]

/-! ## The checks of a fetch (R121, R65) -/

theorem misaligned_check_iff (s : State) : (s.params.oddPc == .fault && s.pc.getLsbD 0) = true ↔ MisalignedPc s := by
  have hodd : s.pc.getLsbD 0 = true ↔ s.pc.toNat % 2 = 1 := by simp [BitVec.getLsbD, Nat.testBit_zero]
  rw [Bool.and_eq_true, beq_iff_eq, hodd, MisalignedPc]

theorem fetch_of_misaligned {s : State} (h : MisalignedPc s) : fetch s = .error (.misalignedFetch s.pc) :=
  if_pos ((misaligned_check_iff s).2 h)

/-- The byte at pc is outside memory. -/
theorem fetch_of_pc_outside {s : State} (ha : ¬MisalignedPc s) (h : Config.memSize ≤ s.pc.toNat) :
    fetch s = .error (.bounds s.pc.toNat .fetch) := by
  rw [fetch, if_neg (mt (misaligned_check_iff s).1 ha), State.memRead_of_ge h]

/-- The byte at pc is the last one of memory. -/
theorem fetch_of_pc_last {s : State} (ha : ¬MisalignedPc s) (h : s.pc.toNat + 1 = Config.memSize) :
    fetch s = .error (.bounds (s.pc.toNat + 1) .fetch) := by
  rw [fetch, if_neg (mt (misaligned_check_iff s).1 ha), State.memRead_of_lt (Nat.lt_of_succ_le h.le),
    State.memRead_of_ge h.ge]

theorem fetchable_of_aligned {s : State} (ha : ¬MisalignedPc s) (h : s.pc.toNat + 1 < Config.memSize) : Fetchable s :=
  ⟨fun hp => (Nat.mod_two_eq_zero_or_one _).resolve_right fun hodd => ha ⟨hp, hodd⟩, h⟩

theorem faultEntry_raise (s : State) (e : FatalError) (w : Option Word) (parts : List Part) :
    FaultEntry s (s.raise e w) e w parts :=
  ⟨rfl, rfl, onlyChanges_raise (List.subset_append_right _ _) s e w⟩

/-- A fetch error ends the cycle in the fault entry (R301). -/
theorem cycle_faultEntry {s : State} {e : FatalError} (h : fetch s = .error e) :
    ∃ t, cycle s = .next t ∧ FaultEntry s t e none [] :=
  ⟨_, cycle_of_fetch_error h, faultEntry_raise s e none []⟩

theorem fetchErrorEntered_cycle (s : State) : FetchErrorEntered s (cycle s) :=
  ⟨fun h => cycle_faultEntry (fetch_of_misaligned h), fun ha h => cycle_faultEntry (fetch_of_pc_outside ha h),
    fun ha h => cycle_faultEntry (fetch_of_pc_last ha h)⟩

/-- Settles O9: the three checks in their order, each with its error, and the fetch that passes them. -/
theorem fetchErrorsEnterFaulted : Obligations.FetchErrorsEnterFaulted := by
  intro s hc
  rw [step_of_cycleNext hc]
  exact ⟨fetchErrorEntered_cycle s.dequeue, fun ha h => fetch_of_fetchable (s := s.dequeue) (fetchable_of_aligned ha h)⟩

/-! ## Unknown words (R129, R310, R311) -/

theorem loggedUnknown_logUnknown (s : State) (w : Word) : LoggedUnknown s (s.logUnknown w) w := by
  refine ⟨rfl, fun p hp => ?_⟩
  cases p
  case diag => exact absurd (by simp) hp
  all_goals rfl

/-- Logging neither fails nor suspends, so steps 4 and 5 follow it. -/
theorem runWord_of_unknown_nop {w : Word} {s : State} {e : DecodeError} (h : decodeWord w = .error e)
    (hnop : s.params.unknownWord = .nop) (hrun : s.run ≠ .faulted) (hwait : s.wait = none) :
    runWord w s = .next (s.logUnknown w).endCycle := by
  rw [runWord_of_unknown h, execUnknown, hnop]
  exact congrArg Host.Outcome.next (State.afterExecute_of_completed (s := s.logUnknown w) hrun hwait)

theorem runWord_of_unknown_refuse {w : Word} {s : State} {e : DecodeError} (h : decodeWord w = .error e)
    (hrefuse : s.params.unknownWord = .refuse) : runWord w s = .refused (.unknownWord w) := by
  rw [runWord_of_unknown h, execUnknown, hrefuse, finishCycle]

/-- Settles O10, by the two policies: the logged word ends its cycle, or the step is the refusal. -/
theorem unknownWordIsLoggedNop : Obligations.UnknownWordIsLoggedNop := by
  intro s e hc hf hd
  rw [step_of_fetchable hc hf]
  obtain ⟨-, hrun, hwait⟩ := hc
  have hrun' : s.dequeue.run ≠ .faulted := by rw [State.dequeue_run, hrun]; decide
  constructor
  · intro hnop
    exact ⟨_, _, runWord_of_unknown_nop hd hnop hrun' hwait, loggedUnknown_logUnknown _ _, endedCycle_endCycle _⟩
  · intro hrefuse
    exact runWord_of_unknown_refuse hd hrefuse

end Sys2Proof.Machine
end

section
/-!
PROOFS. The display instructions (41_display.md R150 to R162). Both forms of DRW are drawn by one operation over a list of parts, so
what it does is said once, of any parts at consecutive addresses that flip no pixel twice: it draws those whose byte is in memory.
-/

namespace Sys2Proof.Machine

/-! ## Clearing and scrolling (R150, R153 to R160) -/

/-- Settles O13: the grid is a blank one of the same size. -/
theorem clsUnlightsEveryPixel : Obligations.ClsUnlightsEveryPixel := fun s =>
  ⟨s.clearScreen, rfl, Grid.pixel_blank _ _, Grid.sized_blank _ _, onlyChanges_setFb (by simp) s _⟩

/-- Column x goes to column (x − n) mod W. -/
theorem Grid.pixel_scrollLeft_target {w h n x y : Nat} (hn : n ≤ w) (g : Grid) (hx : x < w) (hy : y < h) :
    (Grid.scrollLeft w h n g).pixel ((x + (w - n)) % w) y = g.pixel x y := by
  rw [Grid.pixel_scrollLeft n g (Nat.mod_lt _ (by omega)) hy, Nat.mod_add_mod, Nat.add_assoc, Nat.sub_add_cancel hn,
    Nat.add_mod_right, Nat.mod_eq_of_lt hx]

/-- Settles O14: where each of the three scrolls takes a pixel. -/
theorem scrollsRotateTheGrid : Obligations.ScrollsRotateTheGrid := by
  intro s
  have hw := s.width_ge
  refine ⟨fun n => ⟨_, rfl, Grid.sized_scrollDown .., onlyChanges_setFb (by simp) s _, fun p q hp hq => ?_⟩,
    ⟨_, rfl, Grid.sized_scrollRight .., onlyChanges_setFb (by simp) s _, fun p q hp hq => ?_⟩,
    ⟨_, rfl, Grid.sized_scrollLeft .., onlyChanges_setFb (by simp) s _, fun p q hp hq => ?_⟩⟩
  · exact Grid.pixel_scrollDown n.toNat s.fb hp hq
  · exact Grid.pixel_scrollRight 4 s.fb hp hq
  · exact Grid.pixel_scrollLeft_target (by omega) s.fb hp hq

/-- Settles O15: the new grid is a blank one of the resolution selected, whatever `res` was. -/
theorem resolutionSwitchClears : Obligations.ResolutionSwitchClears := fun s =>
  have clears (r : Resolution) := onlyChanges_setResolution (parts := [.res, .fb]) (by simp) (by simp) s r
  ⟨⟨s.setResolution .low, rfl, rfl, rfl, Grid.sized_blank 64 32, Grid.pixel_blank 64 32, clears .low⟩,
    ⟨s.setResolution .high, rfl, rfl, rfl, Grid.sized_blank 128 64, Grid.pixel_blank 128 64, clears .high⟩⟩

/-! ## Which pixels a sprite flips (R151, R152, R161, R162) -/

/-- Inside the grid, bit k of a row falls on the column where the spec has it land. -/
theorem spriteColumn_eq_some_iff {s : State} {x k p : Nat} (hp : p < s.width) :
    spriteColumn s.width s.params.spriteEdge (x % s.width + k) = some p ↔ BitLands s x k p := by
  unfold spriteColumn BitLands
  split_ifs with hin
  · cases s.params.spriteEdge
    · simp
    · simp [Nat.mod_eq_of_lt hin]
  · cases s.params.spriteEdge
    · simpa using fun h : x % s.width + k = p => hin (h ▸ hp)
    · simp

theorem partHits_iff {s : State} {part : SpritePart} {p q : Nat} (hp : p < s.width) :
    partHits s part p q = true ↔ RowFlips s part.addr part.x part.y p q := by
  have hbits : ∀ k, k ∈ [0, 1, 2, 3, 4, 5, 6, 7] ↔ k < 8 := fun k => by
    simp only [List.mem_cons, List.not_mem_nil, or_false]; omega
  simp only [partHits, rowHits, spriteHits, RowFlips, Bool.and_eq_true, decide_eq_true_eq, List.any_eq_true, beq_iff_eq,
    hbits, spriteColumn_eq_some_iff hp]

/-- Whether the byte of a part is in memory. -/
def SpritePart.inMemory (part : SpritePart) : Bool := decide (part.addr < Config.memSize)

/-- One of the parts flips the pixel (p, q), counting only those whose byte is in memory. -/
def PartsFlip (s : State) (ps : List SpritePart) (p q : Nat) : Prop :=
  ∃ part ∈ ps, part.addr < Config.memSize ∧ RowFlips s part.addr part.x part.y p q

theorem partsFlip_spriteParts8 (s : State) (x y n : Nat) :
    PartsFlip s (spriteParts8 s.i.toNat x y n) = Sprite8Flips s x y n := by
  funext p q
  simp [PartsFlip, Sprite8Flips, spriteParts8]

theorem partsFlip_spriteParts16 (s : State) (x y : Nat) :
    PartsFlip s (spriteParts16 s.i.toNat x y) = Sprite16Flips s x y := by
  funext p q
  simp only [PartsFlip, Sprite16Flips, spriteParts16, List.mem_flatMap, List.mem_range, List.mem_cons, List.not_mem_nil,
    or_false, eq_iff_iff]
  constructor
  · rintro ⟨_, ⟨r, hr, rfl | rfl⟩, hflip⟩
    · exact ⟨r, hr, .inl hflip⟩
    · exact ⟨r, hr, .inr hflip⟩
  · rintro ⟨r, hr, hflip | hflip⟩
    · exact ⟨_, ⟨r, hr, .inl rfl⟩, hflip⟩
    · exact ⟨_, ⟨r, hr, .inr rfl⟩, hflip⟩

/-! ## The parts whose byte is in memory, drawn -/

section
variable {s t : State} {ps : List SpritePart}

/-- No two parts flip the same pixel. -/
abbrev PartsApart (s : State) (ps : List SpritePart) : Prop :=
  ps.Pairwise fun p q => ∀ a b, ¬(partHits s p a b = true ∧ partHits s q a b = true)

/-- The grid and the collision after drawing the parts whose byte is in memory. -/
def drawInMemory (s : State) (ps : List SpritePart) : Grid × Bool := drawAll s (ps.filter SpritePart.inMemory) s.fb false

theorem any_partHits_iff {p q : Nat} (hp : p < s.width) :
    ((ps.filter SpritePart.inMemory).any fun part => partHits s part p q) = true ↔ PartsFlip s ps p q := by
  simp only [List.any_eq_true, List.mem_filter, SpritePart.inMemory, decide_eq_true_eq, partHits_iff hp, PartsFlip,
    and_assoc]

theorem pixel_drawInMemory (hs : ScreenSized s) (hd : PartsApart s ps) (p q : Nat) :
    (drawInMemory s ps).1.pixel p q =
      (s.fb.pixel p q ^^ (ps.filter SpritePart.inMemory).any fun part => partHits s part p q) :=
  pixel_drawAll hs (hd.filter _) p q

theorem flipsExactly_drawInMemory (hs : ScreenSized s) (hd : PartsApart s ps) (ht : t.fb = (drawInMemory s ps).1) :
    FlipsExactly s t (PartsFlip s ps) := by
  intro p q hp hq
  rw [ht, pixel_drawInMemory hs hd, ← any_partHits_iff hp]
  cases s.fb.pixel p q <;> simp

/-- VF's collision is a lit pixel that went out: the parts flip no pixel back. -/
theorem collision_drawInMemory (hs : ScreenSized s) (hd : PartsApart s ps) (ht : t.fb = (drawInMemory s ps).1) :
    (drawInMemory s ps).2 = true ↔ TurnsOff s t := by
  have hw := s.width_ge
  have hh := s.height_ge
  rw [drawInMemory, collision_drawAll hs (hd.filter _)]
  simp only [Bool.false_eq_true, false_or, TurnsOff, ht, pixel_drawInMemory hs hd]
  constructor
  · rintro ⟨p, q, hlit, hhit⟩
    obtain ⟨part, -, hpart⟩ := List.any_eq_true.1 hhit
    obtain ⟨hp, hq⟩ := rowHits_in_grid (by omega) (by omega) hpart
    exact ⟨p, q, hp, hq, hlit, by rw [hlit, hhit]; rfl⟩
  · rintro ⟨p, q, -, -, hlit, hout⟩
    exact ⟨p, q, hlit, by simpa [hlit] using hout⟩

/-! ## Where a sprite runs out of memory (R61, R301) -/

/-- The bytes of the parts stand one after the other from `a` on. -/
def ConsecutiveFrom (a : Nat) (ps : List SpritePart) : Prop := ps.map SpritePart.addr = List.range' a ps.length

theorem consecutiveFrom_cons {a : Nat} {part : SpritePart} :
    ConsecutiveFrom a (part :: ps) ↔ part.addr = a ∧ ConsecutiveFrom (a + 1) ps := by
  simp [ConsecutiveFrom, List.range'_succ]

theorem ConsecutiveFrom.addr_mem {a : Nat} (hps : ConsecutiveFrom a ps) {part : SpritePart} (hpart : part ∈ ps) :
    a ≤ part.addr ∧ part.addr < a + ps.length := by
  have hmem : part.addr ∈ List.range' a ps.length := hps ▸ List.mem_map_of_mem hpart
  simpa using hmem

/-- After the parts in memory comes the one at the first address outside. -/
theorem ConsecutiveFrom.exists_first_outside {a : Nat} (hps : ConsecutiveFrom a ps) (hne : ps ≠ [])
    (h : Config.memSize < a + ps.length) :
    ∃ part rest, ps = ps.filter SpritePart.inMemory ++ part :: rest ∧ part.addr = max a Config.memSize := by
  induction ps generalizing a with
  | nil => exact absurd rfl hne
  | cons p ps ih =>
    by_cases ha : a < Config.memSize
    · obtain ⟨hp, htail⟩ := consecutiveFrom_cons.1 hps
      simp only [List.length_cons] at h
      have hne' : ps ≠ [] := by rintro rfl; simp only [List.length_nil] at h; omega
      obtain ⟨part, rest, hsplit, haddr⟩ := ih htail hne' (by omega)
      have hin : p.inMemory = true := decide_eq_true (hp ▸ ha)
      exact ⟨part, rest, by rw [List.filter_cons_of_pos hin, List.cons_append, ← hsplit], by omega⟩
    · have hout : (p :: ps).filter SpritePart.inMemory = [] := List.filter_eq_nil_iff.2 fun part hpart => by
        have hge := (hps.addr_mem hpart).1
        simp only [SpritePart.inMemory, decide_eq_true_eq]
        omega
      have hp := (consecutiveFrom_cons.1 hps).1
      exact ⟨p, ps, by rw [hout, List.nil_append], by omega⟩

/-! ## The whole draw -/

/-- What a draw whose bytes are all in memory makes of `s`. -/
def DrawnWhole (s t : State) (flips : Nat → Nat → Prop) : Prop :=
  ScreenSized t ∧ FlipsExactly s t flips ∧ (TurnsOff s t → t.getV Reg.flag = 1) ∧
    (¬TurnsOff s t → t.getV Reg.flag = 0) ∧ OnlyChanges [.fb, .v Reg.flag] s t

/-- What a draw that meets its first byte outside memory at address `a` makes of `s`. -/
def DrawnUpTo (s t : State) (ins : Instr) (a : Nat) (flips : Nat → Nat → Prop) : Prop :=
  ScreenSized t ∧ FaultEntry s t (.bounds a .read) (some (encode ins)) [.fb] ∧ FlipsExactly s t flips

/-- The parts are drawn, and VF takes the collision (R161, R162). -/
theorem drawnWhole_drawParts {ins : Instr} {a : Nat} (hs : ScreenSized s) (hd : PartsApart s ps)
    (hps : ConsecutiveFrom a ps) (h : a + ps.length ≤ Config.memSize) :
    DrawnWhole s (drawParts ins ps false s) (PartsFlip s ps) := by
  have hin : ∀ part ∈ ps, part.addr < Config.memSize := fun part hpart => (hps.addr_mem hpart).2.trans_le h
  have hfilter : ps.filter SpritePart.inMemory = ps :=
    List.filter_eq_self.2 fun part hpart => decide_eq_true (hin part hpart)
  have hdraw : drawParts ins ps false s =
      (s.setFb (drawInMemory s ps).1).setV Reg.flag (collisionFlag (drawInMemory s ps).2) := by
    rw [drawParts_fits hin, drawInMemory, hfilter]
  have hfb : (drawParts ins ps false s).fb = (drawInMemory s ps).1 := by rw [hdraw]; rfl
  have hflag : (drawParts ins ps false s).getV Reg.flag = collisionFlag (drawInMemory s ps).2 := by
    rw [hdraw, State.getV_setV, if_pos rfl]
  have hcol := collision_drawInMemory hs hd hfb
  refine ⟨sized_drawParts hs, flipsExactly_drawInMemory hs hd hfb, fun hoff => ?_, fun hoff => ?_, ?_⟩
  · rw [hflag, hcol.2 hoff]; rfl
  · rw [hflag, Bool.eq_false_iff.2 (mt hcol.1 hoff)]; rfl
  · rw [hdraw]
    exact (onlyChanges_setFb (by simp) s _).trans (onlyChanges_setV (by simp) _ _)

/-- The parts in memory are drawn, and the next one raises BoundsError (R301). -/
theorem drawnUpTo_drawParts {ins : Instr} {a : Nat} (hs : ScreenSized s) (hd : PartsApart s ps)
    (hps : ConsecutiveFrom a ps) (hne : ps ≠ []) (h : Config.memSize < a + ps.length) :
    DrawnUpTo s (drawParts ins ps false s) ins (max a Config.memSize) (PartsFlip s ps) := by
  obtain ⟨part, rest, hsplit, haddr⟩ := hps.exists_first_outside hne h
  have hin : ∀ p ∈ ps.filter SpritePart.inMemory, p.addr < Config.memSize := fun p hp =>
    of_decide_eq_true (List.mem_filter.1 hp).2
  have hdraw : drawParts ins ps false s =
      (s.setFb (drawInMemory s ps).1).raiseIn (.bounds (max a Config.memSize) .read) ins := by
    rw [← haddr, drawInMemory, ← drawParts_overruns (qs := rest) hin (haddr ▸ le_max_right ..), ← hsplit]
  refine ⟨sized_drawParts hs, ?_, flipsExactly_drawInMemory hs hd (by rw [hdraw]; rfl)⟩
  rw [hdraw]
  exact ⟨rfl, rfl, (onlyChanges_setFb (by simp) s _).trans (onlyChanges_raise (by simp) _ _ _)⟩

end

/-! ## The two forms of DRW -/

@[simp] theorem length_spriteParts8 (i x y n : Nat) : (spriteParts8 i x y n).length = n := by simp [spriteParts8]

@[simp] theorem length_spriteParts16 (i x y : Nat) : (spriteParts16 i x y).length = 32 := rfl

theorem consecutiveFrom_spriteParts8 (i x y n : Nat) : ConsecutiveFrom i (spriteParts8 i x y n) := by
  rw [ConsecutiveFrom, length_spriteParts8, List.range'_eq_map_range, spriteParts8, List.map_map]
  rfl

theorem consecutiveFrom_spriteParts16 (i x y : Nat) : ConsecutiveFrom i (spriteParts16 i x y) := rfl

theorem partsApart_spriteParts8 (s : State) (i x y : Nat) (n : Nibble) : PartsApart s (spriteParts8 i x y n.toNat) :=
  spriteParts8_apart s i x y (Nat.le_of_lt_succ n.isLt)

/-- Settles O16: the N parts of DXYN stand in memory from I on. -/
theorem drawInvertsSpritePixels : Obligations.DrawInvertsSpritePixels := by
  intro x y n s hs hfits
  refine ⟨_, rfl, ?_⟩
  rw [← partsFlip_spriteParts8]
  exact drawnWhole_drawParts hs (partsApart_spriteParts8 ..) (consecutiveFrom_spriteParts8 ..)
    (by rwa [length_spriteParts8])

/-- Settles O17: the 32 parts of DXY0 stand in memory from I on. -/
theorem draw16InvertsSpritePixels : Obligations.Draw16InvertsSpritePixels := by
  intro x y s hs hfits
  refine ⟨_, rfl, ?_⟩
  rw [← partsFlip_spriteParts16]
  exact drawnWhole_drawParts hs (spriteParts16_apart ..) (consecutiveFrom_spriteParts16 ..)
    (by rwa [length_spriteParts16])

/-- Settles O18, by the two forms: the parts of each stand at consecutive addresses from I on, and not all in memory. -/
theorem drawPastMemoryFaults : Obligations.DrawPastMemoryFaults := by
  intro x y s hs
  constructor
  · intro n hover hn
    have hne : n.toNat ≠ 0 := fun h0 => hn (BitVec.eq_of_toNat_eq h0)
    refine ⟨_, rfl, ?_⟩
    rw [← partsFlip_spriteParts8]
    exact drawnUpTo_drawParts hs (partsApart_spriteParts8 ..) (consecutiveFrom_spriteParts8 ..)
      (List.ne_nil_of_length_pos (by rw [length_spriteParts8]; omega)) (by rwa [length_spriteParts8])
  · intro hover
    refine ⟨_, rfl, ?_⟩
    rw [← partsFlip_spriteParts16]
    exact drawnUpTo_drawParts hs (spriteParts16_apart ..) (consecutiveFrom_spriteParts16 ..) (List.cons_ne_nil _ _)
      (by rwa [length_spriteParts16])

end Sys2Proof.Machine
end

section
/-!
PROOFS. The control-flow instructions (42_flow.md R185 to R192): a jump leaves pc 2 below its target and a taken skip adds 2, for
step 5 to complete (40_cycle.md R126); RET and CALL jump with the stack popped or pushed, or enter Faulted (60_exceptions.md R301).
-/

namespace Sys2Proof.Machine

/-! ## Where a jump lands (R126) -/

/-- The bias of a jump and the 2 of step 5 cancel, also where target − 2 wraps. -/
theorem State.jump_pc_add_two (s : State) (target : Word) : (s.jump target).pc + 2 = target :=
  BitVec.sub_add_cancel target 2

theorem toNat_wordOfAddr (nnn : Addr) : (wordOfAddr nnn).toNat = nnn.toNat := BitVec.toNat_setWidth_of_le (by decide)

theorem toNat_wordOfByte (b : Byte) : (wordOfByte b).toNat = b.toNat := BitVec.toNat_setWidth_of_le (by decide)

/-- NNN + V0 does not wrap: 12 bits and 8 bits add up to fewer than 2^16 (R192). -/
theorem toNat_wordOfAddr_add_wordOfByte (nnn : Addr) (b : Byte) :
    (wordOfAddr nnn + wordOfByte b).toNat = b.toNat + nnn.toNat := by
  have hn := nnn.isLt
  have hb := b.isLt
  rw [BitVec.toNat_add, toNat_wordOfAddr, toNat_wordOfByte]
  omega

/-- NNN is reached by step 5, whatever else the state holds. -/
theorem State.toNat_jump_wordOfAddr (s : State) (nnn : Addr) :
    ((s.jump (wordOfAddr nnn)).pc + 2).toNat = nnn.toNat := by
  rw [State.jump_pc_add_two, toNat_wordOfAddr]

/-- Settles O21: each jump lands on its target, and the target's value is the sum of the zero-extended operands. -/
theorem jumpsLandOnTarget : Obligations.JumpsLandOnTarget := by
  intro nnn s
  have jumps (target : Word) : OnlyChanges [.pc] s (s.jump target) := onlyChanges_setPc (by simp) s _
  refine ⟨⟨_, rfl, s.toNat_jump_wordOfAddr nnn, jumps _⟩, ⟨_, rfl, ?_, jumps _⟩⟩
  rw [State.jump_pc_add_two, toNat_wordOfAddr_add_wordOfByte]

/-! ## RET and CALL (R185, R187, R28) -/

theorem execRet_of_cons {s : State} {a : Word} {l : List Word} (h : s.stack = a :: l) :
    execRet s = .next ((s.setStack l).jump a) := by
  rw [execRet_eq, h]

theorem execRet_of_nil {s : State} (h : s.stack = []) : execRet s = .next (s.raiseIn .stackUnderflow .ret) := by
  rw [execRet_eq, h]

theorem execCall_of_room {s : State} (nnn : Addr) (h : s.stack.length < s.params.stackDepth) :
    execCall nnn s = .next ((s.setStack ((s.pc + 2) :: s.stack)).jump (wordOfAddr nnn)) := by
  rw [execCall_eq, if_neg (not_le.2 h)]

theorem execCall_of_full {s : State} (nnn : Addr) (h : s.params.stackDepth ≤ s.stack.length) :
    execCall nnn s = .next (s.raiseIn (.stackOverflow s.stack.length) (.call nnn)) := by
  rw [execCall_eq, if_pos h]

/-- Settles O19, by whether the stack holds an entry. -/
theorem retPopsOrUnderflows : Obligations.RetPopsOrUnderflows := by
  intro s
  constructor
  · intro a l hstack
    exact ⟨_, execRet_of_cons hstack, State.jump_pc_add_two _ a, rfl,
      onlyChanges_setStack_jump (by simp) (by simp) s l a⟩
  · intro hempty
    exact ⟨_, execRet_of_nil hempty, faultEntry_raise s ..⟩

/-- Settles O20, by whether the stack has room. -/
theorem callPushesOrOverflows : Obligations.CallPushesOrOverflows := by
  intro nnn s
  constructor
  · intro hroom
    exact ⟨_, execCall_of_room nnn hroom, State.toNat_jump_wordOfAddr _ nnn, rfl,
      onlyChanges_setStack_jump (by simp) (by simp) s _ _⟩
  · intro hfull
    exact ⟨_, execCall_of_full nnn hfull, faultEntry_raise s ..⟩

/-! ## Skips (R188 to R191) -/

theorem State.skipIf_beq_pc (s : State) (a b : Byte) : (s.skipIf (a == b)).pc = if a = b then s.pc + 2 else s.pc := by
  rw [State.skipIf_eq, State.setPc_pc]
  simp only [beq_iff_eq]

theorem State.skipIf_bne_pc (s : State) (a b : Byte) : (s.skipIf (a != b)).pc = if a = b then s.pc else s.pc + 2 := by
  rw [State.skipIf_eq, State.setPc_pc]
  simp only [bne_iff_ne, ite_not]

/-- Settles O22: SE skips on equality and SNE on its negation, against NN or Vy, and a skip changes pc alone. -/
theorem skipsCompareRegisters : Obligations.SkipsCompareRegisters := by
  intro x y nn s
  have skips (c : Bool) : OnlyChanges [.pc] s (s.skipIf c) := onlyChanges_skipIf (by simp) s c
  exact ⟨⟨_, rfl, s.skipIf_beq_pc _ _, skips _⟩, ⟨_, rfl, s.skipIf_bne_pc _ _, skips _⟩,
    ⟨_, rfl, s.skipIf_beq_pc _ _, skips _⟩, ⟨_, rfl, s.skipIf_bne_pc _ _, skips _⟩⟩

end Sys2Proof.Machine
end

section
/-!
PROOFS. Register arithmetic and logic (43_alu.md R210 to R226). The instructions that write no flag update one register; the five
that do are one shape, the flag and then the result (R211), and differ in the flag and in what the result statement reads.
-/

namespace Sys2Proof.Machine

/-! ## Instructions that write one register (R215 to R220, R226) -/

theorem State.getV_setV_self (s : State) (r : Reg) (b : Byte) : (s.setV r b).getV r = b := by
  rw [State.getV_setV, if_pos rfl]

/-- Settles O23: each writes Vx alone, and the byte addition of ADD is the sum modulo 256. -/
theorem loadsAndImmediateAdd : Obligations.LoadsAndImmediateAdd := by
  intro x y nn s
  have frame (b : Byte) : OnlyChanges [.v x] s (s.setV x b) := onlyChanges_setV (by simp) s b
  refine ⟨⟨_, rfl, s.getV_setV_self x _, frame _⟩, ⟨_, rfl, ?_, frame _⟩, ⟨_, rfl, s.getV_setV_self x _, frame _⟩⟩
  rw [State.getV_setV_self, BitVec.toNat_add]

/-- Settles O24: each writes Vx alone, and bit k of the result is the operation on the two bits k. -/
theorem logicWorksBitwise : Obligations.LogicWorksBitwise := by
  intro x y s
  have frame (b : Byte) : OnlyChanges [.v x] s (s.setV x b) := onlyChanges_setV (by simp) s b
  refine ⟨⟨_, rfl, frame _, fun k _ => ?_⟩, ⟨_, rfl, frame _, fun k _ => ?_⟩, ⟨_, rfl, frame _, fun k _ => ?_⟩⟩
  · rw [State.getV_setV_self, BitVec.getLsbD_or]
  · rw [State.getV_setV_self, BitVec.getLsbD_and]
  · rw [State.getV_setV_self, BitVec.getLsbD_xor]

/-- Settles O29: the draw counts itself and the masked byte goes to Vx; a mask of 0 leaves no bit of it. -/
theorem rndMasksDrawnByte : Obligations.RndMasksDrawnByte := by
  intro x nn s
  have hx : (s.drawByte.2.setV x (s.drawByte.1 &&& nn)).getV x = Config.rngByte s.rngCount &&& nn :=
    State.getV_setV_self _ x _
  refine ⟨_, rfl, hx, rfl, ?_, (onlyChanges_drawByte (by simp) s).trans (onlyChanges_setV (by simp) _ _)⟩
  rintro rfl
  exact hx.trans BitVec.and_zero

/-! ## The flags as numbers (R221 to R225) -/

theorem byteOfBool_decide (p : Prop) [Decidable p] : byteOfBool (decide p) = if p then 1 else 0 := by
  simp only [byteOfBool, decide_eq_true_eq]

theorem carryFlag_eq (a b : Byte) : carryFlag a b = if a.toNat + b.toNat > 255 then 1 else 0 := byteOfBool_decide _

theorem noBorrowFlag_eq (a b : Byte) : noBorrowFlag a b = if a.toNat ≥ b.toNat then 1 else 0 := byteOfBool_decide _

/-- A flag byte has its flag's value. -/
theorem toNat_ite_one_zero (p : Prop) [Decidable p] : (if p then (1 : Byte) else 0).toNat = if p then 1 else 0 :=
  apply_ite BitVec.toNat p 1 0

theorem toNat_shrFlag (a : Byte) : (shrFlag a).toNat = a.toNat % 2 := by
  rw [shrFlag, BitVec.toNat_and]
  exact Nat.and_one_is_mod _

theorem toNat_shlFlag (a : Byte) : (shlFlag a).toNat = a.toNat / 128 := by
  have hlt : a.toNat / 128 < 2 := by have := a.isLt; omega
  calc (shlFlag a).toNat = a.toNat / 128 % 2 := by
        rw [shlFlag, BitVec.toNat_and, BitVec.toNat_ushiftRight, Nat.shiftRight_eq_div_pow]
        exact Nat.and_one_is_mod _
    _ = a.toNat / 128 := Nat.mod_eq_of_lt hlt

/-! ## Results as numbers (R210) -/

theorem toNat_sub_byte (a b : Byte) : (a - b).toNat = (a.toNat + 256 - b.toNat) % 256 := by
  have hb := b.isLt
  rw [BitVec.toNat_sub]
  omega

theorem toNat_ushiftRight_one (a : Byte) : (a >>> 1).toNat = a.toNat / 2 := by
  rw [BitVec.toNat_ushiftRight, Nat.shiftRight_eq_div_pow, pow_one]

theorem toNat_shiftLeft_one (a : Byte) : (a <<< 1).toNat = a.toNat * 2 % 256 := by
  rw [BitVec.toNat_shiftLeft, Nat.shiftLeft_eq, pow_one]

/-! ## The flag and then the result (R211) -/

/-- What the result statement reads in register `r` once VF holds `flag`: in VF itself the setting of VF_ALIAS decides (R211). -/
def operandSeen (s : State) (flag : Byte) (r : Reg) : Byte :=
  if r = Reg.flag then (if s.params.vfAlias = .sequential then flag else s.getV Reg.flag) else s.getV r

theorem getV_resultSource (s : State) (flag : Byte) (r : Reg) :
    (if s.params.vfAlias = .sequential then s.setV Reg.flag flag else s).getV r = operandSeen s flag r := by
  unfold operandSeen
  by_cases hr : r = Reg.flag
  · subst hr
    rw [if_pos rfl, apply_ite (State.getV · Reg.flag), State.getV_setV_self]
  · rw [if_neg hr, apply_ite (State.getV · r), State.getV_setV, if_neg hr, ite_self]

theorem operandSeen_flag (s : State) (flag : Byte) :
    operandSeen s flag Reg.flag = if s.params.vfAlias = .sequential then flag else s.getV Reg.flag := if_pos rfl

theorem operandSeen_of_ne {r : Reg} (h : r ≠ Reg.flag) (s : State) (flag : Byte) : operandSeen s flag r = s.getV r := if_neg h

/-- An outcome that has written `flag` to VF and then `result` to Vx, and nothing else. -/
def WritesFlagThenResult (s : State) (o : Host.Outcome State Fault Refusal) (x : Reg) (flag result : Byte) : Prop :=
  ∃ t, o = .next t ∧ t.getV x = result ∧ (x ≠ Reg.flag → t.getV Reg.flag = flag) ∧ OnlyChanges [.v x, .v Reg.flag] s t

theorem writes_flagThenResult (s : State) (x : Reg) (flag : Byte) (f : State → Byte) :
    WritesFlagThenResult s (.next (flagThenResult s x flag f)) x flag
      (f (if s.params.vfAlias = .sequential then s.setV Reg.flag flag else s)) := by
  refine ⟨_, rfl, ?_, fun hx => ?_, onlyChanges_flagThenResult (by simp) (by simp) s flag f⟩
  · rw [flagThenResult_eq, State.getV_setV_self]
  · rw [flagThenResult_eq, State.getV_setV, if_neg (Ne.symm hx), State.getV_setV_self]

/-- Where VF is the destination, what is left of the two writes is the result. -/
theorem WritesFlagThenResult.into_flag {s : State} {o : Host.Outcome State Fault Refusal} {flag result : Byte}
    (h : WritesFlagThenResult s o Reg.flag flag result) :
    ∃ t, o = .next t ∧ OnlyChanges [.v Reg.flag] s t ∧ t.getV Reg.flag = result := by
  obtain ⟨t, ht, hresult, -, hframe⟩ := h
  exact ⟨t, ht, hframe.mono (by simp), hresult⟩

/-- Where VF is not the destination, both writes stand. -/
theorem WritesFlagThenResult.beside_flag {s : State} {o : Host.Outcome State Fault Refusal} {x : Reg} {flag result : Byte}
    (h : WritesFlagThenResult s o x flag result) (hx : x ≠ Reg.flag) :
    ∃ t, o = .next t ∧ OnlyChanges [.v x, .v Reg.flag] s t ∧ t.getV Reg.flag = flag ∧ t.getV x = result := by
  obtain ⟨t, ht, hresult, hflag, hframe⟩ := h
  exact ⟨t, ht, hframe, hflag hx, hresult⟩

/-! ## The five instructions that write a flag (R221 to R225) -/

section
variable (x y : Reg) (s : State)

theorem exec_addReg_writes : WritesFlagThenResult s (exec (.addReg x y) s) x (carryFlag (s.getV x) (s.getV y))
    (s.getV x + s.getV y) :=
  writes_flagThenResult s x _ fun _ => s.getV x + s.getV y

theorem exec_sub_writes : WritesFlagThenResult s (exec (.sub x y) s) x (noBorrowFlag (s.getV x) (s.getV y))
    (operandSeen s (noBorrowFlag (s.getV x) (s.getV y)) x - operandSeen s (noBorrowFlag (s.getV x) (s.getV y)) y) := by
  rw [← getV_resultSource, ← getV_resultSource]
  exact writes_flagThenResult s x _ fun t => t.getV x - t.getV y

theorem exec_subn_writes : WritesFlagThenResult s (exec (.subn x y) s) x (noBorrowFlag (s.getV y) (s.getV x))
    (operandSeen s (noBorrowFlag (s.getV y) (s.getV x)) y - operandSeen s (noBorrowFlag (s.getV y) (s.getV x)) x) := by
  rw [← getV_resultSource, ← getV_resultSource]
  exact writes_flagThenResult s x _ fun t => t.getV y - t.getV x

theorem exec_shr_writes : WritesFlagThenResult s (exec (.shr x y) s) x (shrFlag (s.getV x))
    (operandSeen s (shrFlag (s.getV x)) x >>> 1) := by
  rw [← getV_resultSource]
  exact writes_flagThenResult s x _ fun t => t.getV x >>> 1

theorem exec_shl_writes : WritesFlagThenResult s (exec (.shl x y) s) x (shlFlag (s.getV x))
    (operandSeen s (shlFlag (s.getV x)) x <<< 1) := by
  rw [← getV_resultSource]
  exact writes_flagThenResult s x _ fun t => t.getV x <<< 1

end

/-- Settles O25: the sum is taken before VF is written, so one case covers every x and y. -/
theorem addSetsCarry : Obligations.AddSetsCarry := by
  intro x y s
  obtain ⟨t, ht, hsum, hcarry, hframe⟩ := exec_addReg_writes x y s
  refine ⟨t, ht, ?_, fun hx => ?_, hframe⟩
  · rw [hsum, BitVec.toNat_add]
  · rw [hcarry hx, carryFlag_eq, toNat_ite_one_zero]

/-- Settles O26: with VF no operand, the result statement reads Vx and Vy as they were. -/
theorem subtractSetsNoBorrow : Obligations.SubtractSetsNoBorrow := by
  intro x y s hx hy
  constructor
  · obtain ⟨t, ht, hframe, hflag, hresult⟩ := (exec_sub_writes x y s).beside_flag hx
    rw [operandSeen_of_ne hx, operandSeen_of_ne hy] at hresult
    exact ⟨t, ht, by rw [hresult, toNat_sub_byte], by rw [hflag, noBorrowFlag_eq, toNat_ite_one_zero], hframe⟩
  · obtain ⟨t, ht, hframe, hflag, hresult⟩ := (exec_subn_writes x y s).beside_flag hx
    rw [operandSeen_of_ne hx, operandSeen_of_ne hy] at hresult
    exact ⟨t, ht, by rw [hresult, toNat_sub_byte], by rw [hflag, noBorrowFlag_eq, toNat_ite_one_zero], hframe⟩

/-- Settles O27: with X other than F, the result statement shifts Vx as it was. -/
theorem shiftsMoveBitToFlag : Obligations.ShiftsMoveBitToFlag := by
  intro x y s hx
  constructor
  · obtain ⟨t, ht, hframe, hflag, hresult⟩ := (exec_shr_writes x y s).beside_flag hx
    rw [operandSeen_of_ne hx] at hresult
    exact ⟨t, ht, by rw [hresult, toNat_ushiftRight_one], by rw [hflag, toNat_shrFlag], hframe⟩
  · obtain ⟨t, ht, hframe, hflag, hresult⟩ := (exec_shl_writes x y s).beside_flag hx
    rw [operandSeen_of_ne hx] at hresult
    exact ⟨t, ht, by rw [hresult, toNat_shiftLeft_one], by rw [hflag, toNat_shlFlag], hframe⟩

/-! ## VF as operand (R211) -/

/-- Settles O28, row by row: the operand that is VF reads the flag just written under `sequential` and VF as it was under
`snapshot`; the other operand reads as it was. -/
theorem flagAliasTable : Obligations.FlagAliasTable := by
  intro x y z s hx hy f a b sequential
  refine ⟨?addIntoFlag, ?addFlag, ?subIntoFlag, ?subFlag, ?subFlagFlag, ?shrFlag, ?subnIntoFlag, ?subnFlag, ?subnFlagFlag,
    ?shlFlag⟩
  case addIntoFlag =>
    obtain ⟨t, ht, hframe, hsum⟩ := (exec_addReg_writes Reg.flag y s).into_flag
    exact ⟨t, ht, hsum, hframe⟩
  case addFlag =>
    obtain ⟨t, ht, hframe, hcarry, hsum⟩ := (exec_addReg_writes x Reg.flag s).beside_flag hx
    exact ⟨t, ht, hsum, by rw [hcarry, carryFlag_eq, toNat_ite_one_zero], hframe⟩
  case subIntoFlag =>
    obtain ⟨t, ht, hframe, hresult⟩ := (exec_sub_writes Reg.flag y s).into_flag
    exact ⟨t, ht, hframe, by rw [hresult, operandSeen_flag, operandSeen_of_ne hy, ite_sub, noBorrowFlag_eq]⟩
  case subFlag =>
    obtain ⟨t, ht, hframe, hflag, hresult⟩ := (exec_sub_writes x Reg.flag s).beside_flag hx
    exact ⟨t, ht, hframe, by rw [hflag, noBorrowFlag_eq],
      by rw [hresult, operandSeen_flag, operandSeen_of_ne hx, sub_ite, noBorrowFlag_eq]⟩
  case subFlagFlag =>
    obtain ⟨t, ht, hframe, hresult⟩ := (exec_sub_writes Reg.flag Reg.flag s).into_flag
    exact ⟨t, ht, hframe, hresult.trans (BitVec.sub_self _)⟩
  case shrFlag =>
    obtain ⟨t, ht, hframe, hresult⟩ := (exec_shr_writes Reg.flag z s).into_flag
    refine ⟨t, ht, hframe, ?_⟩
    have hzero : f.toNat % 2 / 2 = 0 := by omega
    rw [hresult, toNat_ushiftRight_one, operandSeen_flag, apply_ite BitVec.toNat, apply_ite (· / 2), toNat_shrFlag, hzero]
  case subnIntoFlag =>
    obtain ⟨t, ht, hframe, hresult⟩ := (exec_subn_writes Reg.flag y s).into_flag
    exact ⟨t, ht, hframe, by rw [hresult, operandSeen_flag, operandSeen_of_ne hy, sub_ite, noBorrowFlag_eq]⟩
  case subnFlag =>
    obtain ⟨t, ht, hframe, hflag, hresult⟩ := (exec_subn_writes x Reg.flag s).beside_flag hx
    exact ⟨t, ht, hframe, by rw [hflag, noBorrowFlag_eq],
      by rw [hresult, operandSeen_flag, operandSeen_of_ne hx, ite_sub, noBorrowFlag_eq]⟩
  case subnFlagFlag =>
    obtain ⟨t, ht, hframe, hresult⟩ := (exec_subn_writes Reg.flag Reg.flag s).into_flag
    exact ⟨t, ht, hframe, hresult.trans (BitVec.sub_self _)⟩
  case shlFlag =>
    obtain ⟨t, ht, hframe, hresult⟩ := (exec_shl_writes Reg.flag z s).into_flag
    refine ⟨t, ht, hframe, ?_⟩
    have hfits : f.toNat / 128 * 2 % 256 = f.toNat / 128 * 2 := by have := f.isLt; omega
    rw [hresult, toNat_shiftLeft_one, operandSeen_flag, apply_ite BitVec.toNat, apply_ite (· * 2 % 256), toNat_shlFlag, hfits]

end Sys2Proof.Machine
end

section
/-!
PROOFS. The address register and the memory transfers (44_index_memory.md R240 to R251). A block transfer is said once, wherever it
starts: each byte or register whose address is in memory is transferred, the others stay, and the frame is the block when it fits and
the fault entry when it does not (20_memory.md R61; 60_exceptions.md R301).
-/

namespace Sys2Proof.Machine

/-! ## Instructions that set I (R245 to R248) -/

theorem toNat_and_lowNibble (b : Byte) : (b &&& 0xF).toNat = b.toNat % 16 := by
  rw [BitVec.toNat_and]
  exact Nat.and_two_pow_sub_one_eq_mod b.toNat 4

theorem toNat_smallGlyph (b : Byte) : (smallGlyph b).toNat = b.toNat % 16 * 5 := by
  have hlow : b.toNat % 16 < 16 := Nat.mod_lt _ (by decide)
  rw [smallGlyph, BitVec.toNat_mul, toNat_wordOfByte, toNat_and_lowNibble]
  exact Nat.mod_eq_of_lt (by omega : b.toNat % 16 * 5 < 65536)

theorem toNat_largeGlyph (b : Byte) : (largeGlyph b).toNat = 0x50 + b.toNat % 16 * 10 := by
  have hlow : b.toNat % 16 < 16 := Nat.mod_lt _ (by decide)
  have hoffset : (wordOfByte (b &&& 0xF) * 10).toNat = b.toNat % 16 * 10 := by
    rw [BitVec.toNat_mul, toNat_wordOfByte, toNat_and_lowNibble]
    exact Nat.mod_eq_of_lt (by omega : b.toNat % 16 * 10 < 65536)
  rw [largeGlyph, BitVec.toNat_add, hoffset]
  exact Nat.mod_eq_of_lt (by omega : 0x50 + b.toNat % 16 * 10 < 65536)

/-- Settles O30: each sets I alone, to a word whose value is the one the rule gives. -/
theorem indexRegisterLoads : Obligations.IndexRegisterLoads := by
  intro x nnn s
  have frame (a : Word) : OnlyChanges [.i] s (s.setI a) := onlyChanges_setI (by simp) s a
  refine ⟨⟨_, rfl, toNat_wordOfAddr nnn, frame _⟩, ⟨_, rfl, ?_, frame _⟩, ⟨_, rfl, toNat_smallGlyph _, frame _⟩,
    ⟨_, rfl, toNat_largeGlyph _, frame _⟩⟩
  rw [State.setI_i, BitVec.toNat_add, toNat_wordOfByte]

/-! ## The fault entry after a partial transfer (R301) -/

/-- The record names the pc of `s`, which the transfer before the error left alone. -/
theorem OnlyChanges.faultEntry_raiseIn {parts : List Part} {s u : State} (h : OnlyChanges parts s u) (hpc : u.pc = s.pc)
    (e : FatalError) (ins : Instr) : FaultEntry s (u.raiseIn e ins) e (some (encode ins)) parts := by
  refine ⟨rfl, by rw [← hpc]; rfl, (h.mono (List.subset_append_left ..)).trans ?_⟩
  exact onlyChanges_raise (List.subset_append_right ..) u _ _

/-! ## Block stores (R249, R250) -/

section
variable {ins : Instr} {a : Nat} {bs : List Byte} {s : State}

theorem bytesFrom_subset {m n : Nat} (h : m ≤ n) : bytesFrom a m ⊆ bytesFrom a n := by
  intro p hp
  obtain ⟨k, hk, rfl⟩ := mem_bytesFrom.1 hp
  exact mem_bytesFrom.2 ⟨k, by omega, rfl⟩

/-- Bytes stored inside memory change their own addresses alone. With no byte to store, `a` may lie outside. -/
theorem onlyChanges_writeList (hm : s.mem.wf) (h : bs.length ≤ Config.memSize - a) :
    OnlyChanges (bytesFrom a bs.length) s (s.setMem (s.mem.writeList a bs)) := by
  induction bs generalizing a s with
  | nil => exact .refl _ s
  | cons b bs ih =>
    simp only [List.length_cons] at h
    have hwrite := onlyChanges_write (byteAt_mem_bytesFrom a bs.length) hm b
    exact hwrite.trans ((ih (Memory.wf_write hm (by omega) b) (by omega)).mono (bytesFrom_succ_subset a _))

/-- A block store stores the bytes that fit, whether or not they are all of them. -/
theorem storeBytes_mem : (storeBytes ins a bs s).mem = s.mem.writeList a (bs.take (Config.memSize - a)) := by
  by_cases h : a + bs.length ≤ Config.memSize
  · rw [storeBytes_fits h, List.take_of_length_le (by omega), State.setMem_mem]
  · by_cases hne : bs = []
    · subst hne; rw [List.take_nil]; rfl
    · rw [storeBytes_overruns hne (not_le.1 h)]; rfl

/-- The byte at place k of the block is stored when its address is in memory. -/
theorem read_storeBytes (hm : s.mem.wf) {k : Nat} (hk : k < bs.length) (hin : a + k < Config.memSize) :
    (storeBytes ins a bs s).mem.read (a + k) = bs[k] := by
  have hlen : (bs.take (Config.memSize - a)).length = min (Config.memSize - a) bs.length := List.length_take
  have hk' : k < (bs.take (Config.memSize - a)).length := by omega
  rw [storeBytes_mem, Memory.read_writeList hm (by omega), if_pos (by omega), Nat.add_sub_cancel_left,
    List.getD_eq_getElem _ _ hk', List.getElem_take]

theorem onlyChanges_storeBytes_fits (hm : s.mem.wf) (h : a + bs.length ≤ Config.memSize) :
    OnlyChanges (bytesFrom a bs.length) s (storeBytes ins a bs s) := by
  rw [storeBytes_fits h]
  exact onlyChanges_writeList hm (by omega)

theorem faultEntry_storeBytes (hm : s.mem.wf) (hne : bs ≠ []) (h : Config.memSize < a + bs.length) :
    FaultEntry s (storeBytes ins a bs s) (.bounds (max a Config.memSize) .write) (some (encode ins))
      (bytesFrom a (Config.memSize - a)) := by
  have hlen : (bs.take (Config.memSize - a)).length ≤ Config.memSize - a := List.length_take_le ..
  have hstored := (onlyChanges_writeList hm hlen).mono (bytesFrom_subset hlen)
  rw [storeBytes_overruns hne h]
  exact hstored.faultEntry_raiseIn rfl _ ins

end

/-! ## LD B, Vx (R249) -/

theorem exec_ldB (x : Reg) (s : State) :
    exec (.ldB x) s = .next (storeBytes (.ldB x) s.i.toNat (bcdDigits (s.getV x)) s) := rfl

theorem toNat_ofNat_byte {n : Nat} (h : n < 256) : (BitVec.ofNat 8 n).toNat = n :=
  (BitVec.toNat_ofNat ..).trans (Nat.mod_eq_of_lt h)

/-- Each digit is stored when its address is in memory. -/
theorem read_storeBytes_bcdDigits {s : State} {ins : Instr} {a : Nat} (hm : s.mem.wf) (b : Byte) :
    let t := storeBytes ins a (bcdDigits b) s
    (a < Config.memSize → (t.mem.read a).toNat = b.toNat / 100) ∧
    (a + 1 < Config.memSize → (t.mem.read (a + 1)).toNat = b.toNat / 10 % 10) ∧
    (a + 2 < Config.memSize → (t.mem.read (a + 2)).toNat = b.toNat % 10) := by
  have hb := b.isLt
  have stored {k : Nat} (hk : k < 3) (hin : a + k < Config.memSize) := congrArg BitVec.toNat
    (read_storeBytes (ins := ins) (bs := bcdDigits b) hm hk hin)
  refine ⟨fun h => ?_, fun h => ?_, fun h => ?_⟩
  · exact (stored (k := 0) (by decide) h).trans (toNat_ofNat_byte (by omega))
  · exact (stored (by decide) h).trans (toNat_ofNat_byte (by omega))
  · exact (stored (by decide) h).trans (toNat_ofNat_byte (by omega))

/-- Settles O31: the block is the three digits, and a store that fits changes their bytes alone. -/
theorem bcdStoresThreeDigits : Obligations.BcdStoresThreeDigits := by
  intro x s hm hfits
  obtain ⟨hhundreds, htens, hones⟩ := read_storeBytes_bcdDigits (ins := .ldB x) (a := s.i.toNat) hm (s.getV x)
  have hframe := onlyChanges_storeBytes_fits (ins := .ldB x) (a := s.i.toNat) (bs := bcdDigits (s.getV x)) hm
    (by rw [length_bcdDigits]; omega)
  exact ⟨_, exec_ldB x s, hhundreds (by omega), htens (by omega), hones hfits, hframe⟩

/-! ## LD [I], Vx (R250) -/

theorem exec_ldMemVx (x : Reg) (s : State) :
    exec (.ldMemVx x) s = .next (storeBytes (.ldMemVx x) s.i.toNat ((blockRegs x).map s.getV) s) := rfl

theorem length_blockBytes (x : Reg) (s : State) : ((blockRegs x).map s.getV).length = x.toNat + 1 := by simp

/-- Register r of the block goes to place r. -/
theorem read_storeBytes_blockRegs {x r : Reg} {s : State} {ins : Instr} {a : Nat} (hm : s.mem.wf) (hr : r.toNat ≤ x.toNat)
    (hin : a + r.toNat < Config.memSize) :
    (storeBytes ins a ((blockRegs x).map s.getV) s).mem.read (a + r.toNat) = s.getV r := by
  rw [read_storeBytes hm (by rw [length_blockBytes]; omega) hin, List.getElem_map, getElem_blockRegs, regOfNat_toNat]

/-- Settles O32: register r goes to place r, and a store that fits changes the bytes of its block alone. -/
theorem registerDumpStoresBlock : Obligations.RegisterDumpStoresBlock := by
  intro x s hm hfits
  have hlen := length_blockBytes x s
  refine ⟨_, exec_ldMemVx x s, fun r hr => read_storeBytes_blockRegs hm hr (by omega), ?_⟩
  rw [← hlen]
  exact onlyChanges_storeBytes_fits hm (by omega)

/-- Settles O34, by the two stores: the bytes whose address is in memory are stored, and the rest is the fault entry. -/
theorem storesPastMemoryFault : Obligations.StoresPastMemoryFault := by
  intro x s hm
  constructor
  · intro hover
    obtain ⟨hhundreds, htens, -⟩ := read_storeBytes_bcdDigits (ins := .ldB x) (a := s.i.toNat) hm (s.getV x)
    exact ⟨_, exec_ldB x s, hhundreds, htens,
      faultEntry_storeBytes hm (List.cons_ne_nil _ _) (by rw [length_bcdDigits]; omega)⟩
  · intro hover
    have hlen := length_blockBytes x s
    exact ⟨_, exec_ldMemVx x s, fun r hr hin => read_storeBytes_blockRegs hm hr hin,
      faultEntry_storeBytes hm (List.ne_nil_of_length_pos (by omega)) (by omega)⟩

/-! ## Block loads (R251) -/

theorem onlyChanges_loadAll {parts : List Part} {a : Nat} {rs : List Reg} {s : State} (h : rs.map .v ⊆ parts) :
    OnlyChanges parts s (loadAll a rs s) := by
  induction rs generalizing a s with
  | nil => exact .refl parts s
  | cons r rs ih =>
    rw [List.map_cons, List.cons_subset] at h
    exact (onlyChanges_setV h.1 s _).trans (ih h.2)

theorem loadAll_pc (a : Nat) (rs : List Reg) (s : State) : (loadAll a rs s).pc = s.pc := by rw [loadAll_eq]

/-- Of the block of x, the first n registers are those numbered below n. -/
theorem mem_take_blockRegs {x r : Reg} {n : Nat} : r ∈ (blockRegs x).take n ↔ r.toNat ≤ x.toNat ∧ r.toNat < n := by
  constructor
  · intro h
    have hmem : r ∈ blockRegs x := List.mem_of_mem_take h
    have hr := mem_blockRegs.1 hmem
    exact ⟨hr, idxOf_blockRegs hr ▸ (List.mem_take_iff_idxOf_lt hmem).1 h⟩
  · rintro ⟨hr, hn⟩
    exact (List.mem_take_iff_idxOf_lt (mem_blockRegs.2 hr)).2 (by rwa [idxOf_blockRegs hr])

theorem getV_loadAll_take_blockRegs (x r : Reg) (a n : Nat) (s : State) :
    (loadAll a ((blockRegs x).take n) s).getV r =
      if r.toNat ≤ x.toNat ∧ r.toNat < n then s.mem.read (a + r.toNat) else s.getV r := by
  rw [getV_loadAll ((nodup_blockRegs x).sublist (List.take_sublist ..))]
  by_cases h : r ∈ (blockRegs x).take n
  · have hr := mem_take_blockRegs.1 h
    rw [if_pos h, if_pos hr, (List.take_prefix ..).idxOf_eq_of_mem h, idxOf_blockRegs hr.1]
  · rw [if_neg h, if_neg (mt mem_take_blockRegs.2 h)]

section
variable {ins : Instr} {a : Nat} {x : Reg} {s : State}

/-- A register of the block is loaded when its address is in memory; every other register is unchanged. -/
theorem getV_loadRegs_blockRegs (r : Reg) :
    (loadRegs ins a (blockRegs x) s).getV r =
      if r.toNat ≤ x.toNat ∧ a + r.toNat < Config.memSize then s.mem.read (a + r.toNat) else s.getV r := by
  have hload : (loadRegs ins a (blockRegs x) s).getV r =
      (loadAll a ((blockRegs x).take (Config.memSize - a)) s).getV r := by
    have hlen := length_blockRegs x
    by_cases h : a + (blockRegs x).length ≤ Config.memSize
    · rw [loadRegs_fits h, List.take_of_length_le (by omega)]
    · rw [loadRegs_overruns (List.ne_nil_of_length_pos (by omega)) (not_le.1 h), State.getV_raiseIn]
  rw [hload, getV_loadAll_take_blockRegs]
  exact if_congr (by omega) rfl rfl

theorem onlyChanges_loadRegs_fits (h : a + x.toNat < Config.memSize) :
    OnlyChanges (regsTo x) s (loadRegs ins a (blockRegs x) s) := by
  rw [loadRegs_fits (by rw [length_blockRegs]; omega)]
  exact onlyChanges_loadAll (List.Subset.refl _)

theorem faultEntry_loadRegs (h : Config.memSize ≤ a + x.toNat) :
    FaultEntry s (loadRegs ins a (blockRegs x) s) (.bounds (max a Config.memSize) .read) (some (encode ins)) (regsTo x) := by
  have hlen := length_blockRegs x
  have hloaded : OnlyChanges (regsTo x) s (loadAll a ((blockRegs x).take (Config.memSize - a)) s) :=
    onlyChanges_loadAll (List.map_subset _ (List.take_subset ..))
  rw [loadRegs_overruns (List.ne_nil_of_length_pos (by omega)) (by omega)]
  exact hloaded.faultEntry_raiseIn (loadAll_pc ..) _ ins

end

/-! ## LD Vx, [I] (R251) -/

theorem exec_ldVxMem (x : Reg) (s : State) :
    exec (.ldVxMem x) s = .next (loadRegs (.ldVxMem x) s.i.toNat (blockRegs x) s) := rfl

/-- Settles O33: every address of the block is in memory. -/
theorem registerLoadReadsBlock : Obligations.RegisterLoadReadsBlock := by
  intro x s hfits
  exact ⟨_, exec_ldVxMem x s, fun r hr => (getV_loadRegs_blockRegs r).trans (if_pos ⟨hr, by omega⟩),
    onlyChanges_loadRegs_fits hfits⟩

/-- Settles O35: the registers whose address is in memory are loaded, and the rest is the fault entry. -/
theorem loadPastMemoryFaults : Obligations.LoadPastMemoryFaults := by
  intro x s hover
  exact ⟨_, exec_ldVxMem x s, fun r hr hin => (getV_loadRegs_blockRegs r).trans (if_pos ⟨hr, hin⟩),
    fun r hout => (getV_loadRegs_blockRegs r).trans (if_neg fun h => not_lt.2 hout h.2), faultEntry_loadRegs hover⟩

end Sys2Proof.Machine
end

section
/-!
PROOFS. Keys and timers (45_keys_timers.md R270 to R281). SKP and SKNP test one key, whose number KEY_INDEX_POLICY masks or refuses;
FX0A suspends its cycle, and with a key edge the next CORE step latches the key and ends that cycle (R278, R279).
-/

namespace Sys2Proof.Machine

/-! ## SKP and SKNP (R270, R275, R276) -/

/-- A key number of four bits is the value modulo 16. -/
theorem nibble_ofNat_mod (n : Nat) : BitVec.ofNat 4 (n % 16) = BitVec.ofNat 4 n :=
  BitVec.eq_of_toNat_eq (Nat.mod_mod n 16)

section
variable {s : State} {x : Reg}

/-- An index that is below 16 or masked is not refused. -/
theorem keyIndex_admitted (h : (s.getV x).toNat < 16 ∨ s.params.keyIndex = .mask) :
    ¬(16 ≤ (s.getV x).toNat ∧ s.params.keyIndex = .fault) := by
  rintro ⟨hlarge, hfault⟩
  rcases h with hsmall | hmask
  · omega
  · rw [hfault] at hmask
    cases hmask

theorem execSkp_of_admitted (h : (s.getV x).toNat < 16 ∨ s.params.keyIndex = .mask) :
    execSkp x s = .next (s.skipIf (s.isDown (BitVec.ofNat 4 ((s.getV x).toNat % 16)))) := by
  rw [execSkp_eq, if_neg (keyIndex_admitted h), nibble_ofNat_mod]

theorem execSknp_of_admitted (h : (s.getV x).toNat < 16 ∨ s.params.keyIndex = .mask) :
    execSknp x s = .next (s.skipIf (!s.isDown (BitVec.ofNat 4 ((s.getV x).toNat % 16)))) := by
  rw [execSknp_eq, if_neg (keyIndex_admitted h), nibble_ofNat_mod]

theorem execSkp_of_refused (hlarge : 16 ≤ (s.getV x).toNat) (hfault : s.params.keyIndex = .fault) :
    execSkp x s = .next (s.raiseIn (.keyIndex (s.getV x)) (.skp x)) := by
  rw [execSkp_eq, if_pos ⟨hlarge, hfault⟩]

theorem execSknp_of_refused (hlarge : 16 ≤ (s.getV x).toNat) (hfault : s.params.keyIndex = .fault) :
    execSknp x s = .next (s.raiseIn (.keyIndex (s.getV x)) (.sknp x)) := by
  rw [execSknp_eq, if_pos ⟨hlarge, hfault⟩]

end

theorem State.skipIf_pc (s : State) (c : Bool) : (s.skipIf c).pc = if c = true then s.pc + 2 else s.pc := by
  rw [State.skipIf_eq, State.setPc_pc]

theorem State.skipIf_not_pc (s : State) (c : Bool) : (s.skipIf !c).pc = if c = true then s.pc else s.pc + 2 := by
  rw [State.skipIf_pc]
  cases c <;> rfl

/-- Settles O36: both test the same key, SKP skips on its flag and SKNP on the negation, and a skip changes pc alone. -/
theorem keySkipsTestKey : Obligations.KeySkipsTestKey := by
  intro x s hindex
  have skips (c : Bool) : OnlyChanges [.pc] s (s.skipIf c) := onlyChanges_skipIf (by simp) s c
  exact ⟨⟨_, execSkp_of_admitted hindex, skips _, s.skipIf_pc _⟩,
    ⟨_, execSknp_of_admitted hindex, skips _, s.skipIf_not_pc _⟩⟩

/-- Settles O37: the refused index is the fault entry of either instruction. -/
theorem keyIndexErrorRaised : Obligations.KeyIndexErrorRaised := by
  intro x s hlarge hfault
  exact ⟨⟨_, execSkp_of_refused hlarge hfault, faultEntry_raise s ..⟩,
    ⟨_, execSknp_of_refused hlarge hfault, faultEntry_raise s ..⟩⟩

/-! ## The timers (R277, R280, R281) -/

/-- The tone sounds while ST is not 0 (10_state.md R31). -/
theorem State.tone_iff (s : State) : s.tone = true ↔ s.st ≠ 0 := bne_iff_ne

/-- Settles O38: each moves one byte, and the tone follows the value moved to ST. -/
theorem timerMoves : Obligations.TimerMoves := by
  intro x s
  refine ⟨⟨_, rfl, s.getV_setV_self x _, onlyChanges_setV (by simp) s _⟩,
    ⟨_, rfl, rfl, onlyChanges_setDt (by simp) s _⟩, ⟨_, rfl, rfl, ?_, onlyChanges_setSt (by simp) s _⟩⟩
  exact State.tone_iff _

/-! ## FX0A: the wait begins (R278, R130) -/

/-- Settles O39: the wait begun is the whole effect. -/
theorem keyWaitSuspends : Obligations.KeyWaitSuspends := by
  intro x s
  exact ⟨_, rfl, rfl, rfl, onlyChanges_beginWait (by simp) (by simp) s x⟩

/-! ## FX0A: a key edge ends the wait (R279, R320) -/

/-- Step 3 of the suspended cycle, as a key edge completes it: Vx takes the latched key and the wait is over (R279). -/
def State.latchKey (s : State) (x : Reg) : State := { s.setV x (byteOfNibble s.lastKey) with wait := none }

/-- The completion of a wait is the latch, and then steps 4 and 5 of the suspended cycle. -/
theorem State.completeWait_eq (s : State) (x : Reg) : s.completeWait x = (s.latchKey x).endCycle := rfl

theorem toNat_byteOfNibble (k : Nibble) : (byteOfNibble k).toNat = k.toNat := BitVec.toNat_setWidth_of_le (by decide)

theorem State.toNat_getV_latchKey (s : State) (x : Reg) : ((s.latchKey x).getV x).toNat = s.lastKey.toNat :=
  (congrArg BitVec.toNat (s.getV_setV_self x _)).trans (toNat_byteOfNibble s.lastKey)

theorem onlyChanges_endWait {parts : List Part} (h : .wait ∈ parts) (s : State) :
    OnlyChanges parts s { s with wait := none } := by
  intro p hp
  cases p
  case wait => exact absurd h hp
  all_goals rfl

theorem onlyChanges_latchKey (s : State) (x : Reg) : OnlyChanges [.v x, .wait] s (s.latchKey x) :=
  (onlyChanges_setV (by simp) s _).trans (onlyChanges_endWait (by simp) _)

section
variable {s : State} {x : Reg}

theorem coreStep_of_edge (hrun : s.run = .running) (hwait : s.wait = some x) (hedge : s.pressed = true) :
    coreStep s = .next (s.completeWait x) := by
  simp only [coreStep, hrun, hwait, hedge, if_true]

theorem coreStep_of_no_edge (hrun : s.run = .running) (hwait : s.wait = some x) (hedge : s.pressed = false) :
    coreStep s = .fault (.keyWait x) := by
  simp only [coreStep, hrun, hwait, hedge, Bool.false_eq_true, if_false]

end

/-- Settles O40: the CORE step completes the wait, by its latch and the end of the cycle, exactly when there has been a key edge. -/
theorem keyWaitCompletes : Obligations.KeyWaitCompletes := by
  intro x s hcore hrun hwait
  rw [step_of_coreNext hcore]
  constructor
  · intro hedge
    exact ⟨s.dequeue.latchKey x, _, coreStep_of_edge hrun hwait hedge, endedCycle_endCycle _,
      s.dequeue.toNat_getV_latchKey x, rfl, onlyChanges_latchKey _ x⟩
  · exact coreStep_of_no_edge (s := s.dequeue) hrun hwait

end Sys2Proof.Machine
end

section
/-!
PROOFS. The fatal errors of step 3 (60_exceptions.md R300, R301): an instruction raises only an error R300 lists for it, recorded
with its address and its word, and has by then written neither pc nor the stack.
-/

namespace Sys2Proof.Machine

/-- How step 3 of an instruction may leave the run state: as it was, or with an error listed for it raised before pc or the stack
was written. -/
def KeptOrRaisedListed (i : Instr) (s t : State) : Prop :=
  t.run = s.run ∨
  ((∃ e, mayRaise i e ∧ t.fault = some ⟨e, s.pc, some (encode i)⟩) ∧ t.pc = s.pc ∧ t.stack = s.stack)

theorem keptOrRaisedListed_raiseIn (s : State) {i : Instr} {e : FatalError} (h : mayRaise i e) :
    KeptOrRaisedListed i s (s.raiseIn e i) := .inr ⟨⟨e, h, rfl⟩, rfl, rfl⟩

@[simp] theorem State.skipIf_run (s : State) (c : Bool) : (s.skipIf c).run = s.run := by
  rw [State.skipIf_eq, State.setPc_run]

/-! ## The operations that meet the bound of memory (R61) -/

/-- The block store writes memory alone before the error. -/
theorem keptOrRaisedListed_storeBytes {i : Instr} (a : Nat) (bs : List Byte) (s : State)
    (h : ∀ c, Config.memSize ≤ c → mayRaise i (.bounds c .write)) : KeptOrRaisedListed i s (storeBytes i a bs s) := by
  induction bs generalizing a s with
  | nil => exact .inl rfl
  | cons b bs ih =>
    unfold storeBytes State.memWrite
    split_ifs with ha
    · exact ih (a + 1) (s.setMem (s.mem.write a b))
    · exact keptOrRaisedListed_raiseIn s (h a (not_lt.1 ha))

/-- The block load writes registers alone before the error. -/
theorem keptOrRaisedListed_loadRegs {i : Instr} (a : Nat) (rs : List Reg) (s : State)
    (h : ∀ c, Config.memSize ≤ c → mayRaise i (.bounds c .read)) : KeptOrRaisedListed i s (loadRegs i a rs s) := by
  induction rs generalizing a s with
  | nil => exact .inl rfl
  | cons r rs ih =>
    unfold loadRegs State.memRead
    split_ifs with ha
    · exact ih (a + 1) (s.setV r (s.mem.read a))
    · exact keptOrRaisedListed_raiseIn s (h a (not_lt.1 ha))

/-- The draw writes pixels alone before the error. -/
theorem keptOrRaisedListed_drawParts {i : Instr} (ps : List SpritePart) (col : Bool) (s : State)
    (h : ∀ c, Config.memSize ≤ c → mayRaise i (.bounds c .read)) : KeptOrRaisedListed i s (drawParts i ps col s) := by
  induction ps generalizing col s with
  | nil => exact .inl rfl
  | cons p ps ih =>
    unfold drawParts State.memRead
    split_ifs with ha
    · exact ih _ (s.setFb _)
    · exact keptOrRaisedListed_raiseIn s (h p.addr (not_lt.1 ha))

/-! ## The key test (R270) -/

/-- SKP and SKNP skip, or refuse the index before that. -/
theorem keptOrRaisedListed_keyTest {i : Instr} {v : Byte} {p : KeyIndexPolicy} (s : State) (c : Bool)
    (h : 16 ≤ v.toNat → mayRaise i (.keyIndex v)) :
    KeptOrRaisedListed i s (if 16 ≤ v.toNat ∧ p = .fault then s.raiseIn (.keyIndex v) i else s.skipIf c) := by
  split_ifs with hrefused
  · exact keptOrRaisedListed_raiseIn s (h hrefused.left)
  · exact .inl (s.skipIf_run c)

/-! ## Every instruction -/

theorem exec_keptOrRaisedListed {i : Instr} {s t : State} (h : exec i s = .next t) : KeptOrRaisedListed i s t := by
  cases i
  case ret =>
    cases next_inj ((execRet_eq s).symm.trans h)
    cases s.stack with
    | nil => exact keptOrRaisedListed_raiseIn s rfl
    | cons a l => exact .inl rfl
  case call nnn =>
    cases next_inj ((execCall_eq nnn s).symm.trans h)
    split_ifs
    · exact keptOrRaisedListed_raiseIn s ⟨_, rfl⟩
    · exact .inl rfl
  case skp x =>
    cases next_inj ((execSkp_eq x s).symm.trans h); exact keptOrRaisedListed_keyTest s _ fun hlarge => ⟨_, hlarge, rfl⟩
  case sknp x =>
    cases next_inj ((execSknp_eq x s).symm.trans h); exact keptOrRaisedListed_keyTest s _ fun hlarge => ⟨_, hlarge, rfl⟩
  case drw | drw16 => cases next_inj h; exact keptOrRaisedListed_drawParts _ _ s fun a ha => ⟨a, ha, rfl⟩
  case ldB | ldMemVx => cases next_inj h; exact keptOrRaisedListed_storeBytes _ _ s fun a ha => ⟨a, ha, rfl⟩
  case ldVxMem => cases next_inj h; exact keptOrRaisedListed_loadRegs _ _ s fun a ha => ⟨a, ha, rfl⟩
  case seImm | sneImm | seReg | sneReg => cases next_inj h; exact .inl (s.skipIf_run _)
  all_goals cases next_inj h; exact .inl rfl

/-- Settles O44: the run state has changed, so a listed error was raised. -/
theorem onlyListedErrorsRaised : Obligations.OnlyListedErrorsRaised := by
  intro i s t hs h ht
  rcases exec_keptOrRaisedListed h with hkept | hraised
  · exact absurd (hkept.symm.trans ht) hs
  · exact hraised

end Sys2Proof.Machine
end

section
/-!
PROOFS. The inputs of a step (60_exceptions.md R320 to R331): which of them are admitted in which run state, where each takes the
run state (R328), and what the inputs that run no cycle do.
-/

namespace Sys2Proof.Machine

/-! ## The next input (R320) -/

theorem step_of_cons {s : State} {e : Event} {rest : List Event} (h : s.schedule = e :: rest) :
    step s = eventStep e s.dequeue := by
  rw [step, nextStep, h]

/-- Settles O60: the step is that of the input, and taking it from the schedule leaves the rest. -/
theorem stepTakesNextInput : Obligations.StepTakesNextInput := by
  intro s e rest h
  rw [step_of_cons h, State.dequeue_of_cons h]
  cases e <;> rfl

theorem coreStep_of_faulted {s : State} (h : s.run = .faulted) : coreStep s = .fault (.faulted s.fault) := by
  rw [coreStep, h]

theorem coreStep_of_notRunning {s : State} (h : s.run = .idle ∨ s.run = .loaded ∨ s.run = .paused) :
    coreStep s = .fault (.notRunning s.run) := by
  rcases h with h | h | h <;> rw [coreStep, h]

/-- Settles O12: the step is the CORE's own, which Faulted and the three other states answer by a fault. -/
theorem noCoreStepOutsideRunning : Obligations.NoCoreStepOutsideRunning := by
  intro s hc
  rw [step_of_coreNext hc]
  exact ⟨coreStep_of_faulted (s := s.dequeue), coreStep_of_notRunning (s := s.dequeue)⟩

/-! ## Operations that are not admitted (R321 to R325, R354, D31) -/

/-- The three moves of the run state and the load are guarded by the run state that admits them, the two host steps by
`State.steppable`; stop and the views are admitted everywhere. -/
theorem rejected_of_not_admitted {op : HostOp} {s : State} (h : s.admits op = false) : Rejected op s := by
  have off : ¬s.admits op = true := Bool.eq_false_iff.1 h
  refine ⟨?_, if_neg off⟩
  cases op with
  | loadProgram bytes => exact congrArg Host.Outcome.next (if_neg fun hguard => off (Bool.and_eq_true_iff.1 hguard).left)
  | play | pause | resume => exact congrArg Host.Outcome.next (if_neg off)
  | stepOneCycle | executeRaw w => exact if_neg off
  | stop | getFramebufferView | getInputStateHandle => exact absurd rfl off

theorem State.steppable_eq_false {s : State} (hloaded : s.run ≠ .loaded) (hpaused : s.run ≠ .paused) :
    s.steppable = false :=
  Bool.eq_false_iff.2 fun h => (s.steppable_iff.1 h).elim hloaded hpaused

theorem State.admits_executeRaw_of_not_steppable {s : State} (h : s.steppable = false) (w : Word) :
    s.admits (.executeRaw w) = false := Bool.and_eq_false_iff.2 (.inl h)

theorem State.admits_executeRaw_of_wait {s : State} (h : s.wait ≠ none) (w : Word) : s.admits (.executeRaw w) = false :=
  Bool.and_eq_false_iff.2 (.inr (Option.isNone_eq_false_iff.2 (Option.isSome_iff_ne_none.2 h)))

/-- Settles O53: each operation is outside the states that admit it. -/
theorem unadmittedOperationsRejected : Obligations.UnadmittedOperationsRejected := by
  intro s bytes w
  have not_run {r : RunState} (h : s.run ≠ r) : (s.run == r) = false := beq_eq_false_iff_ne.2 h
  refine ⟨fun h => rejected_of_not_admitted (not_run h), fun h => rejected_of_not_admitted (not_run h),
    fun h => rejected_of_not_admitted (not_run h), fun h => rejected_of_not_admitted (not_run h),
    fun hloaded hpaused => ?_, fun hwait => rejected_of_not_admitted (State.admits_executeRaw_of_wait hwait w)⟩
  have hstep := State.steppable_eq_false hloaded hpaused
  exact ⟨rejected_of_not_admitted hstep, rejected_of_not_admitted (State.admits_executeRaw_of_not_steppable hstep w)⟩

/-! ## The moves of the run state alone (R321 to R323) -/

theorem onlyChanges_setRun {parts : List Part} (h : .run ∈ parts) (s : State) (r : RunState) :
    OnlyChanges parts s { s with run := r } := by
  intro p hp
  cases p
  case run => exact absurd h hp
  all_goals rfl

theorem State.play_of_loaded {s : State} (h : s.run = .loaded) : s.play = { s with run := .running } :=
  if_pos (beq_iff_eq.2 h)

theorem State.pause_of_running {s : State} (h : s.run = .running) : s.pause = { s with run := .paused } :=
  if_pos (beq_iff_eq.2 h)

theorem State.resume_of_paused {s : State} (h : s.run = .paused) : s.resume = { s with run := .running } :=
  if_pos (beq_iff_eq.2 h)

/-- Settles O54: each is admitted in its state and writes the run state. -/
theorem playPauseResume : Obligations.PlayPauseResume := by
  intro s
  have frame (r : RunState) : OnlyChanges [.run] s { s with run := r } := onlyChanges_setRun (by simp) s r
  have accepted {r : RunState} (h : s.run = r) {a c : Reply} : (if s.run == r then a else c) = a := if_pos (beq_iff_eq.2 h)
  exact ⟨fun h => ⟨accepted h, s.play, rfl, State.play_of_loaded h ▸ ⟨rfl, frame .running⟩⟩,
    fun h => ⟨accepted h, s.pause, rfl, State.pause_of_running h ▸ ⟨rfl, frame .paused⟩⟩,
    fun h => ⟨accepted h, s.resume, rfl, State.resume_of_paused h ▸ ⟨rfl, frame .running⟩⟩⟩

/-! ## The views (R327) -/

/-- Settles O59: a view is answered from the state, which its step hands on. -/
theorem viewsChangeNothing : Obligations.ViewsChangeNothing := fun _ => ⟨rfl, rfl, rfl, rfl⟩

/-! ## The keypad (R331) -/

theorem State.isDown_setDown (s : State) (k j : Nibble) (b : Bool) :
    (s.setDown k b).isDown j = if j = k then b else s.isDown j := by
  have hval : k.toNat = j.toNat ↔ j = k := by rw [← BitVec.toNat_inj, eq_comm]
  rw [State.isDown, State.setDown, Vector.getElem_set]
  simp only [hval, State.isDown]

theorem onlyChanges_setDown (s : State) (k : Nibble) (b : Bool) :
    OnlyChanges [.keys, .lastKey, .pressed] s (s.setDown k b) := by
  intro p hp
  cases p
  case keys | lastKey | pressed => exact absurd (by simp) hp
  all_goals rfl

theorem State.setDown_latch_of_edge {s : State} {k : Nibble} {b : Bool} (h : b = true ∧ s.isDown k = false) :
    (s.setDown k b).lastKey = k ∧ (s.setDown k b).pressed = true := by
  obtain ⟨rfl, hup⟩ := h
  simp [State.setDown, hup]

theorem State.setDown_latch_of_no_edge {s : State} {k : Nibble} {b : Bool} (h : ¬(b = true ∧ s.isDown k = false)) :
    (s.setDown k b).lastKey = s.lastKey ∧ (s.setDown k b).pressed = s.pressed := by
  have hedge : (b && !s.isDown k) = false := by simpa using h
  simp [State.setDown, hedge]

theorem onlyChanges_dequeue {parts : List Part} (h : .schedule ∈ parts) (s : State) : OnlyChanges parts s s.dequeue := by
  intro p hp
  cases p
  case schedule => exact absurd h hp
  all_goals rfl

/-- Settles O58: the key's flag, the latch with and without an edge, and the input taken. -/
theorem setDownLatchesEdges : Obligations.SetDownLatchesEdges := by
  intro s k b rest h
  refine ⟨s.dequeue.setDown k b, step_of_cons h, ?_, fun j hj => ?_, State.setDown_latch_of_edge (s := s.dequeue),
    State.setDown_latch_of_no_edge (s := s.dequeue), ?_, ?_⟩
  · rw [State.isDown_setDown, if_pos rfl]
  · rw [State.isDown_setDown, if_neg hj]; rfl
  · rw [State.dequeue_of_cons h]; rfl
  · exact (onlyChanges_dequeue (by simp) s).trans ((onlyChanges_setDown s.dequeue k b).mono (by simp))

/-! ## Where a cycle leaves the run state (R124, R301) -/

@[simp] theorem State.afterExecute_run (s : State) : s.afterExecute.run = s.run := by
  unfold State.afterExecute; split_ifs <;> rfl

theorem runWord_run {w : Word} {s t : State} (h : runWord w s = .next t) : t.run = s.run ∨ t.run = .faulted := by
  obtain ⟨i, u, -, hu, rfl⟩ | ⟨e, -, -, rfl⟩ := runWord_cases h
  · rw [State.afterExecute_run]
    exact (exec_step3 hu).control.imp And.left And.left
  · exact .inl (s.logUnknown w).afterExecute_run

theorem cycle_run {s t : State} (h : cycle s = .next t) : t.run = s.run ∨ t.run = .faulted := by
  obtain ⟨e, -, rfl⟩ | ⟨w, -, hw⟩ := cycle_cases h
  · exact .inr rfl
  · exact runWord_run hw

/-! ## Where a step the host asked for leaves it (R324, R325) -/

theorem State.pauseAfterStep_of_faulted {s : State} (h : s.run = .faulted) : s.pauseAfterStep = s :=
  if_pos (beq_iff_eq.2 h)

theorem State.pauseAfterStep_of_not_faulted {s : State} (h : s.run ≠ .faulted) :
    s.pauseAfterStep = { s with run := .paused } :=
  if_neg (mt beq_iff_eq.1 h)

theorem State.pauseAfterStep_run (s : State) :
    s.pauseAfterStep.run = if s.run = .faulted then .faulted else .paused := by
  by_cases h : s.run = .faulted
  · rw [State.pauseAfterStep_of_faulted h, h, if_pos rfl]
  · rw [State.pauseAfterStep_of_not_faulted h, if_neg h]

theorem State.pauseAfterStep_paused_or_faulted (s : State) :
    s.pauseAfterStep.run = .paused ∨ s.pauseAfterStep.run = .faulted := by
  rw [State.pauseAfterStep_run]
  split_ifs
  · exact .inr rfl
  · exact .inl rfl

/-- Where a run state is the one moved from, it becomes the one moved to. -/
theorem State.moveRun_run (s : State) (r r' : RunState) :
    (if s.run == r then { s with run := r' } else s).run = if s.run = r then r' else s.run := by
  simp only [beq_iff_eq]
  split_ifs <;> rfl

theorem State.loadProgram_run (s : State) (bytes : List Byte) :
    (s.loadProgram bytes).run = if s.run = .idle ∧ bytes.length ≤ 3584 then .loaded else s.run := by
  have hguard : (s.run == .idle && decide (bytes.length ≤ Config.romMax)) = true ↔
      s.run = .idle ∧ bytes.length ≤ 3584 := by
    rw [Bool.and_eq_true, beq_iff_eq, decide_eq_true_iff]
    exact Iff.rfl
  unfold State.loadProgram
  simp only [hguard]
  split_ifs <;> rfl

/-! ## The run-state table (R328) -/

theorem coreStep_runEdge {s t : State} (h : coreStep s = .next t) : RunEdge s t.run .core := by
  obtain ⟨hrun, ⟨-, hc⟩ | ⟨x, -, -, rfl⟩⟩ := coreStep_cases h
  · exact ⟨hrun, hrun ▸ cycle_run hc⟩
  · exact ⟨hrun, .inl hrun⟩

theorem hostStep_runEdge {op : HostOp} {s t : State} (h : hostStep op s = .next t) : RunEdge s t.run (.host op) := by
  cases op with
  | loadProgram bytes => cases next_inj h; exact s.loadProgram_run bytes
  | play => cases next_inj h; exact s.moveRun_run .loaded .running
  | pause => cases next_inj h; exact s.moveRun_run .running .paused
  | resume => cases next_inj h; exact s.moveRun_run .paused .running
  | stop => cases next_inj h; exact s.fullReset_run
  | stepOneCycle =>
    have admitted {u : State} (hstep : s.steppable = true) : RunEdge s u.pauseAfterStep.run (.host .stepOneCycle) :=
      ⟨fun _ => u.pauseAfterStep_paused_or_faulted, fun hno => absurd (s.steppable_iff.1 hstep) hno⟩
    obtain ⟨hno, rfl⟩ | ⟨hstep, -, u, -, rfl⟩ | ⟨hstep, x, -, -, rfl⟩ := hostStepOneCycle_cases h
    · exact ⟨fun hstep => absurd (t.steppable_iff.2 hstep) (Bool.eq_false_iff.1 hno), fun _ => rfl⟩
    · exact admitted hstep
    · exact admitted hstep
  | executeRaw w =>
    have hadmits : (s.steppable && s.wait.isNone) = true ↔ MayStep s ∧ s.wait = none := by
      rw [Bool.and_eq_true, State.steppable_iff, Option.isNone_iff_eq_none]
    obtain ⟨hno, rfl⟩ | ⟨hyes, u, -, rfl⟩ := hostExecuteRaw_cases h
    · exact ⟨fun hstep => absurd (hadmits.2 hstep) (Bool.eq_false_iff.1 hno), fun _ => rfl⟩
    · exact ⟨fun _ => u.pauseAfterStep_paused_or_faulted, fun hno => absurd (hadmits.1 hyes) hno⟩
  | getFramebufferView => cases next_inj h; rfl
  | getInputStateHandle => cases next_inj h; rfl

theorem eventStep_runEdge {e : Event} {s t : State} (h : eventStep e s = .next t) : RunEdge s t.run e := by
  cases e with
  | core => exact coreStep_runEdge h
  | host op => exact hostStep_runEdge h
  | setDown k b => cases next_inj h; rfl

/-- The table reads the run state and the wait, not the inputs to come. -/
theorem runEdge_dequeue {s : State} {b : RunState} {e : Event} (h : RunEdge s.dequeue b e) : RunEdge s b e := by
  cases e with
  | core => exact h
  | host op => cases op <;> exact h
  | setDown k d => exact h

/-- Settles O51: the CORE's own step where no input is to come, and else the step of the next input. -/
theorem runStateTransitions : Obligations.RunStateTransitions := by
  intro s t h
  obtain ⟨hnil, hc⟩ | ⟨e, rest, hcons, he⟩ := step_cases h
  · rw [hnil]
    exact coreStep_runEdge hc
  · rw [hcons]
    exact runEdge_dequeue (eventStep_runEdge he)

/-! ## Faulted (R302) -/

/-- In Faulted no operation but stop and the views is admitted, and the views change nothing. -/
theorem hostStep_of_faulted {op : HostOp} {s : State} (h : s.run = .faulted) (hop : op ≠ .stop) :
    hostStep op s = .next s := by
  have not_run {r : RunState} (hr : RunState.faulted ≠ r) : (s.run == r) = false := by
    rw [h]; exact beq_eq_false_iff_ne.2 hr
  have not_steppable : s.steppable = false := State.steppable_eq_false (by rw [h]; decide) (by rw [h]; decide)
  have ignored (hno : s.admits op = false) : hostStep op s = .next s := (rejected_of_not_admitted hno).1
  cases op with
  | loadProgram bytes | play | pause | resume => exact ignored (not_run (by decide))
  | stop => exact absurd rfl hop
  | stepOneCycle => exact ignored not_steppable
  | executeRaw w => exact ignored (State.admits_executeRaw_of_not_steppable not_steppable w)
  | getFramebufferView | getInputStateHandle => rfl

/-- An input other than stop leaves Faulted and its record, where it is answered at all. -/
theorem eventStep_of_faulted {e : Event} {s t : State} (hs : s.run = .faulted) (he : e ≠ .host .stop)
    (h : eventStep e s = .next t) : t.run = s.run ∧ t.fault = s.fault := by
  cases e with
  | core => exact absurd (h.symm.trans (coreStep_of_faulted hs)) nofun
  | host op =>
    have hop : op ≠ .stop := fun hstop => he (congrArg Event.host hstop)
    cases next_inj ((hostStep_of_faulted hs hop).symm.trans h)
    exact ⟨rfl, rfl⟩
  | setDown k b => cases next_inj h; exact ⟨rfl, rfl⟩

/-- Settles O52: the next input is stop or leaves Faulted as it is; with none to come the CORE takes no step. -/
theorem faultedLeftOnlyByStop : Obligations.FaultedLeftOnlyByStop := by
  intro s t hs h
  obtain ⟨-, hc⟩ | ⟨e, rest, hcons, he⟩ := step_cases h
  · exact absurd (hc.symm.trans (coreStep_of_faulted hs)) nofun
  · by_cases hstop : e = .host .stop
    · exact .inr (by rw [hcons, hstop]; rfl)
    · obtain ⟨hrun, hfault⟩ := eventStep_of_faulted (s := s.dequeue) hs hstop he
      exact .inl ⟨hrun.trans hs, hfault⟩

end Sys2Proof.Machine
end

section
/-!
PROOFS. The cycles the host asks for (60_exceptions.md R324, R325): stepOneCycle with its fetch or the completion of a wait, and
executeRawInstruction with neither. Both end in `State.pauseAfterStep`.
-/

namespace Sys2Proof.Machine

/-! ## Paused after the step, or Faulted -/

theorem onlyChanges_pauseAfterStep (s : State) : OnlyChanges [.run] s s.pauseAfterStep := by
  by_cases h : s.run = .faulted
  · rw [State.pauseAfterStep_of_faulted h]; exact .refl _ s
  · rw [State.pauseAfterStep_of_not_faulted h]; exact onlyChanges_setRun (by simp) s _

theorem pausedFrom_pauseAfterStep {s : State} (h : s.run ≠ .faulted) : PausedFrom s s.pauseAfterStep :=
  ⟨by rw [State.pauseAfterStep_run, if_neg h], onlyChanges_pauseAfterStep s⟩

theorem pauseOutcome_next (s : State) : pauseOutcome (.next s) = .next s.pauseAfterStep := rfl

theorem MayStep.not_faulted {s : State} (h : MayStep s) : s.run ≠ .faulted :=
  State.not_faulted_of_steppable (s.steppable_iff.2 h)

/-- The fault entry of a fetch error is not paused. -/
theorem pauseOutcome_faultEntry {s : State} {o : Host.Outcome State Fault Refusal} {e : FatalError}
    (h : ∃ t, o = .next t ∧ FaultEntry s t e none []) : ∃ t, pauseOutcome o = .next t ∧ FaultEntry s t e none [] := by
  obtain ⟨t, rfl, hrun, hrecord⟩ := h
  exact ⟨t, by rw [pauseOutcome_next, State.pauseAfterStep_of_faulted hrun], hrun, hrecord⟩

theorem FetchErrorEntered.pauseOutcome {s : State} {o : Host.Outcome State Fault Refusal} (h : FetchErrorEntered s o) :
    FetchErrorEntered s (pauseOutcome o) := by
  obtain ⟨misaligned, outside, last⟩ := h
  exact ⟨fun hm => pauseOutcome_faultEntry (misaligned hm), fun ha hpc => pauseOutcome_faultEntry (outside ha hpc),
    fun ha hpc => pauseOutcome_faultEntry (last ha hpc)⟩

/-! ## Steps 2 to 5 on a word (R129, R324, R325) -/

/-- A known word runs its instruction, after which steps 4 and 5 follow or not; an unknown one is logged or refused. -/
theorem hostRan_runWord {s : State} (hs : MayStep s) (hw : s.wait = none) (w : Word) :
    HostRan s w (pauseOutcome (runWord w s)) := by
  constructor
  · intro i t hd ht
    rw [runWord_of_decodes hd, ht, finishCycle_next, pauseOutcome_next]
    refine ⟨fun hrun => ?_, fun hrun hwait => ?_, fun hrun hwait => ?_⟩
    · rw [State.afterExecute_of_stopped (.inl hrun), State.pauseAfterStep_of_faulted hrun]
    · rw [State.afterExecute_of_stopped (.inr hwait)]
      exact ⟨_, rfl, pausedFrom_pauseAfterStep hrun⟩
    · rw [State.afterExecute_of_completed hrun hwait]
      exact ⟨t.endCycle, _, rfl, endedCycle_endCycle t, pausedFrom_pauseAfterStep (s := t.endCycle) hrun⟩
  · intro e hd
    constructor
    · intro hnop
      rw [runWord_of_unknown_nop hd hnop hs.not_faulted hw, pauseOutcome_next]
      exact ⟨s.logUnknown w, (s.logUnknown w).endCycle, _, rfl, loggedUnknown_logUnknown s w, endedCycle_endCycle _,
        pausedFrom_pauseAfterStep (s := (s.logUnknown w).endCycle) hs.not_faulted⟩
    · intro hrefuse
      rw [runWord_of_unknown_refuse hd hrefuse]
      rfl

/-- Settles O57: the operation is steps 2 to 5 on the word, with no fetch. -/
theorem executeRawSkipsFetch : Obligations.ExecuteRawSkipsFetch := by
  intro s w hs hw
  rw [hostStep_executeRaw hs hw]
  exact hostRan_runWord hs hw w

/-! ## stepOneCycle in a wait (R279, R324) -/

section
variable {s : State} {x : Reg}

theorem hostStep_stepOneCycle_of_edge (hs : MayStep s) (hwait : s.wait = some x) (hedge : s.pressed = true) :
    hostStep .stepOneCycle s = .next (s.completeWait x).pauseAfterStep := by
  simp only [hostStep, hostStepOneCycle, s.steppable_iff.2 hs, hwait, hedge, if_true]

theorem hostStep_stepOneCycle_of_no_edge (hs : MayStep s) (hwait : s.wait = some x) (hedge : s.pressed = false) :
    hostStep .stepOneCycle s = .fault .stepBlocked := by
  simp only [hostStep, hostStepOneCycle, s.steppable_iff.2 hs, hwait, hedge, if_true, Bool.false_eq_true, if_false]

theorem hostReply_stepOneCycle_of_no_edge (hs : MayStep s) (hwait : s.wait = some x) (hedge : s.pressed = false) :
    hostReply .stepOneCycle s = .blocked := by
  have hadmits : s.admits .stepOneCycle = true := s.steppable_iff.2 hs
  simp [hostReply, hadmits, hwait, hedge]

end

/-- Settles O56: with no wait the operation is a cycle and then Paused, whichever word or check of the fetch decides it; in a wait
it completes the wait, by its latch and the end of the cycle, or the caller is blocked. -/
theorem stepOneCycleThenPaused : Obligations.StepOneCycleThenPaused := by
  intro s hs
  refine ⟨fun hw t ht => ?_, fun hw hf => ?_, fun hw => ?_, fun x hw hedge => ?_, fun x hw hedge => ?_⟩
  · rw [hostStep_stepOneCycle hs hw, ht]
    exact ⟨_, rfl, onlyChanges_pauseAfterStep t, t.pauseAfterStep_run⟩
  · rw [hostStep_stepOneCycle hs hw, cycle_of_fetchable hf]
    exact hostRan_runWord hs hw _
  · rw [hostStep_stepOneCycle hs hw]
    exact (fetchErrorEntered_cycle s).pauseOutcome
  · exact ⟨s.latchKey x, s.completeWait x, _, hostStep_stepOneCycle_of_edge hs hw hedge, s.toNat_getV_latchKey x, rfl,
      onlyChanges_latchKey s x, endedCycle_endCycle _, pausedFrom_pauseAfterStep (s := s.completeWait x) hs.not_faulted⟩
  · exact ⟨hostReply_stepOneCycle_of_no_edge hs hw hedge, hostStep_stepOneCycle_of_no_edge hs hw hedge⟩

end Sys2Proof.Machine
end

section
/-!
PROOFS. Loading a program (70_reset_and_hazards.md R354, R355, R356): a program of at most ROM_MAX bytes fits between ORIGIN and the
end of memory, so it is stored as one block; a longer one is reported and ignored.
-/

namespace Sys2Proof.Machine

section
variable {s : State} {bytes : List Byte}

theorem State.loadProgram_of_fits (hidle : s.run = .idle) (hlen : bytes.length ≤ Config.romMax) :
    s.loadProgram bytes =
      { (s.setMem (s.mem.writeList Config.origin bytes)).setPc (BitVec.ofNat 16 Config.origin) with run := .loaded } :=
  if_pos (Bool.and_eq_true_iff.2 ⟨beq_iff_eq.2 hidle, decide_eq_true hlen⟩)

theorem State.loadProgram_of_oversize (hlen : Config.romMax < bytes.length) : s.loadProgram bytes = s :=
  if_neg fun hguard => not_le.2 hlen (of_decide_eq_true (Bool.and_eq_true_iff.1 hguard).right)

theorem hostReply_loadProgram_of_idle (hidle : s.run = .idle) :
    hostReply (.loadProgram bytes) s = if bytes.length ≤ Config.romMax then .accepted else .loadOversize :=
  if_pos (beq_iff_eq.2 hidle)

/-- The block stored, the jump to ORIGIN and the move to Loaded change their own parts. -/
theorem onlyChanges_loadProgram (hidle : s.run = .idle) (hm : s.mem.wf) (hlen : bytes.length ≤ Config.romMax) :
    OnlyChanges ([.run, .pc] ++ bytesFrom Config.origin bytes.length) s (s.loadProgram bytes) := by
  rw [State.loadProgram_of_fits hidle hlen]
  have hstored := (onlyChanges_writeList hm hlen).mono (List.subset_append_right [.run, .pc] _)
  exact (hstored.trans (onlyChanges_setPc (by simp) _ _)).trans (onlyChanges_setRun (by simp) _ _)

theorem read_loadProgram (hidle : s.run = .idle) (hm : s.mem.wf) (hlen : bytes.length ≤ Config.romMax) {k : Nat}
    (hk : k < bytes.length) : (s.loadProgram bytes).mem.read (Config.origin + k) = bytes.getD k 0 := by
  have hfits : Config.origin + bytes.length ≤ Config.memSize := Nat.add_le_of_le_sub' (by decide) hlen
  rw [State.loadProgram_of_fits hidle hlen]
  exact (Memory.read_writeList hm hfits _).trans (by rw [if_pos (by omega), Nat.add_sub_cancel_left])

end

/-- Settles O55: a program that fits is stored as a block at ORIGIN, and a longer one leaves the state as it is. -/
theorem loadProgramCopiesOrReports : Obligations.LoadProgramCopiesOrReports := by
  intro s bytes hidle hm
  constructor
  · intro hlen
    have hloaded := State.loadProgram_of_fits hidle hlen
    exact ⟨(hostReply_loadProgram_of_idle hidle).trans (if_pos hlen), s.loadProgram bytes, rfl, congrArg State.run hloaded,
      congrArg State.pc hloaded, fun k hk => read_loadProgram hidle hm hlen hk, onlyChanges_loadProgram hidle hm hlen⟩
  · intro hlen
    exact ⟨(hostReply_loadProgram_of_idle hidle).trans (if_neg (not_le.2 hlen)),
      congrArg Host.Outcome.next (State.loadProgram_of_oversize hlen)⟩

end Sys2Proof.Machine
end
